-- ==== Sys2Proof/Word.lean ====
section
/-! DEFINITION. Bytes, words, the header value and the other operand types of the operations
(spec/00_scope.md R11, R12; spec/10_state.md R21). -/

namespace Sys2Proof

/-- A byte, 0 to 255 (R11). -/
abbrev Byte := BitVec 8

/-- A 16-bit word, bit 0 the least significant (R12). -/
abbrev Word := BitVec 16

/-- An APID, 11 bits, 0 to 2047 (R94). -/
abbrev Apid := BitVec 11

/-- A set of APIDs as the 2048-bit membership bitmap of R30: bit `i` set means APID `i` is a member. -/
abbrev ApidSet := BitVec 2048

/-- The byte order a header word is read or written under (R62); as a bit, big-endian is 0 and little-endian 1 (R105). -/
inductive ByteOrder where
  | be
  | le
deriving DecidableEq, Repr

/-- A header value `H = (W[0], W[1], W[2])` (R21): control word, sequence word, length word, each the numeric
value after the byte order has been applied. Every value of every word is legal. -/
structure Header where
  w0 : Word
  w1 : Word
  w2 : Word
deriving DecidableEq, Repr, Inhabited

/-- A 6-byte region, the operand of `DECODE` (R90, R130): exactly six bytes, `b0` the first on the wire. -/
structure Region where
  b0 : Byte
  b1 : Byte
  b2 : Byte
  b3 : Byte
  b4 : Byte
  b5 : Byte
deriving DecidableEq, Repr

/-- The seven fields of the primary header (R94). -/
inductive HeaderField where
  | version
  | packetType
  | secHdrFlag
  | apid
  | seqType
  | seqCount
  | lengthField
deriving DecidableEq, Repr

/-- The packet-type names of R97 and R148; `unknown` only for an integer that does not fit the field (R100). -/
inductive PacketType where
  | telemetry
  | command
  | unknown
deriving DecidableEq, Repr

/-- The names of the secondary-header flag (R98, R148). -/
inductive SecHdrFlag where
  | notPresent
  | present
  | unknown
deriving DecidableEq, Repr

/-- The sequence-flag names (R99, R148). Their numbering is PRESUMED in the spec itself (general knowledge); the
block attaches no behaviour to it (log 14). -/
inductive SeqFlag where
  | continuation
  | firstSegment
  | lastSegment
  | unsegmented
  | unknown
deriving DecidableEq, Repr

end Sys2Proof
end

