-- ==== Sys2Proof/Config.lean ====
section
/-! DEFINITION. What is fixed when the block is built (spec/00_scope.md R10), the configuration record of the
framer (spec/10_state.md R30 to R41), the validation predicate and the free values. -/

namespace Sys2Proof

/-- The framer's configuration `CFG`, the source's ParserConfig: twelve fields in the order of their numbers
(R30 to R41, R111). -/
structure ParserConfig where
  /-- number 0 (R30): the allow-list; `none` accepts any APID. -/
  allowedApids : Option ApidSet
  /-- number 1 (R31): inclusive upper bound on the packet length. -/
  maxPacketLength : Option Nat
  /-- number 2 (R32): inclusive lower bound on the packet length. -/
  minPacketLength : Option Nat
  /-- number 3 (R33): reject packets without the secondary-header flag. -/
  secondaryHeaderRequired : Bool
  /-- number 4 (R34): the literal sync marker, empty for none. -/
  syncBytes : List Byte
  /-- number 5 (R35): the extracted span includes the sync marker. -/
  keepSync : Bool
  /-- number 6 (R36): size of the non-CCSDS prefix before the primary header. -/
  numHeaderBytes : Nat
  /-- number 7 (R37): the extracted span includes the prefix. -/
  keepHeader : Bool
  /-- number 8 (R38): size of the trailer after the packet data. -/
  numFooterBytes : Nat
  /-- number 9 (R39): the extracted span includes the footer. -/
  keepFooter : Bool
  /-- number 10 (R40): the framer reads the primary header little-endian. -/
  littleEndianHeader : Bool
  /-- number 11 (R41, R237): the present bit of the validation predicate. -/
  validationCallback : Bool
deriving DecidableEq, Repr, Inhabited

/-- The parameter `T1_EXTRA` of R10 and R196 (D4, U15): a fixed number of bytes (0 by default), or the other
reading of "sync/prefix again", which counts sync and prefix a second time. -/
inductive Check1Reading where
  | extra (n : Nat)
  | syncPrefixAgain
deriving DecidableEq, Repr

/-- The build-time parameters of R10 that are numbers; `none` stands for `inf`. -/
structure Params where
  /-- `BUF_CAP`: capacity of the buffer in bytes (D7). -/
  bufCap : Option Nat
  /-- `CNT_W`: width of `SKIPPED` in bits (D8). -/
  cntW : Option Nat
  /-- `LEN_W`: width of the configured lengths in bits (D19). -/
  lenW : Nat
  /-- `SYNC_MAX`: largest length of a sync marker in bytes (D19). -/
  syncMax : Option Nat
  /-- `T1_EXTRA`: the reading of check 1's threshold (D4). -/
  t1Extra : Check1Reading
deriving DecidableEq, Repr

/-- The defaults of R10. -/
def Params.default : Params :=
  { bufCap := none, cntW := none, lenW := 32, syncMax := none, t1Extra := .extra 0 }

/-- The parameter `VALIDATE` of R10 (R41, R309): a total, pure function of the candidate span. It has no body: a
statement about it holds for every predicate (log 2). -/
opaque Config.validate : List Byte → Bool

/-- FREE VALUE (R105, U14, log 7): the 4-bit status field of a response that does not use it. -/
opaque Config.freeStatus : Nat → BitVec 4

/-- FREE VALUE (R105, U14, log 7): the header field of a response that does not use it. -/
opaque Config.freeHdr : Nat → BitVec 48

/-- FREE VALUE (R105, U14, log 7; U11, log 10): the value field of a response that does not use it, or of
`GET_SKIPPED` once the counter has outgrown its width. -/
opaque Config.freeVal : Nat → Nat

/-- FREE VALUE (R105, U14, log 7): the data field of a response that does not use it. -/
opaque Config.freeData : Nat → List Byte

/-- FREE VALUE (R105, U14, log 7): the configuration record of a response other than `CFG_READ`'s. -/
opaque Config.freeCfg : Nat → ParserConfig

end Sys2Proof
end

