-- ==== Sys2Proof/Syntax.lean ====
section
/-! DEFINITION. The 43 operations of spec/30_encoding.md R110 (opcode_table.json) as one inductive type with typed
operands, as R105 asks of a model: a field value is exactly as wide as its field (R160), so a too-wide integer or
`Unknown` is no operand (U1, U2). -/

namespace Sys2Proof

inductive Instr where
  /-- `0x00` `DECODE` (R130). -/
  | decode (data : Region) (order : ByteOrder)
  /-- `0x01` `DECODE_SLICE` (R131). -/
  | decodeSlice (data : List Byte) (order : ByteOrder)
  /-- `0x02` `ENCODE` (R132). -/
  | encode (hdr : Header) (order : ByteOrder)
  /-- `0x10` `GET_VERSION` (R141). -/
  | getVersion (hdr : Header)
  /-- `0x11` `GET_PACKET_TYPE` (R142). -/
  | getPacketType (hdr : Header)
  /-- `0x12` `GET_SEC_HDR_FLAG` (R143). -/
  | getSecHdrFlag (hdr : Header)
  /-- `0x13` `GET_APID` (R144). -/
  | getApid (hdr : Header)
  /-- `0x14` `GET_SEQ_TYPE` (R145). -/
  | getSeqType (hdr : Header)
  /-- `0x15` `GET_SEQ_COUNT` (R146). -/
  | getSeqCount (hdr : Header)
  /-- `0x16` `GET_LENGTH_FIELD` (R147). -/
  | getLengthField (hdr : Header)
  /-- `0x17` `PACKET_LENGTH` (R180). -/
  | packetLength (hdr : Header)
  /-- `0x18` `DATA_LENGTH` (R181). -/
  | dataLength (hdr : Header)
  /-- `0x20` `SET_VERSION` (R161). -/
  | setVersion (hdr : Header) (v : BitVec 3)
  /-- `0x21` `SET_PACKET_TYPE` (R162). -/
  | setPacketType (hdr : Header) (v : BitVec 1)
  /-- `0x22` `SET_SEC_HDR_FLAG` (R163). -/
  | setSecHdrFlag (hdr : Header) (v : BitVec 1)
  /-- `0x23` `SET_APID` (R164). -/
  | setApid (hdr : Header) (v : Apid)
  /-- `0x24` `SET_SEQ_TYPE` (R165). -/
  | setSeqType (hdr : Header) (v : BitVec 2)
  /-- `0x25` `SET_SEQ_COUNT` (R166). -/
  | setSeqCount (hdr : Header) (v : BitVec 14)
  /-- `0x26` `SET_LENGTH_FIELD` (R167). -/
  | setLengthField (hdr : Header) (v : BitVec 16)
  /-- `0x27` `SET_PACKET_LENGTH` (R182); `total` is a natural of `LEN_W` bits. -/
  | setPacketLength (hdr : Header) (total : Nat)
  /-- `0x30` `RECV_BYTES` (R220). -/
  | recvBytes (data : List Byte)
  /-- `0x31` `RECV_SLICE` (R221). -/
  | recvSlice (data : List Byte)
  /-- `0x32` `ALLOW_APID` (R222). -/
  | allowApid (apid : Apid)
  /-- `0x33` `CURRENT_HEADER` (R191). -/
  | currentHeader
  /-- `0x34` `CURRENT_STATUS` (R206). -/
  | currentStatus
  /-- `0x35` `REJECT` (R261). -/
  | reject
  /-- `0x36` `PULL_PACKET` (R262). -/
  | pullPacket
  /-- `0x37` `NEXT` (R266). -/
  | next
  /-- `0x38` `GET_SKIPPED` (R223). -/
  | getSkipped
  /-- `0x40` `CFG_ALLOWED_APIDS` (R226). -/
  | cfgAllowedApids (set : Option ApidSet)
  /-- `0x41` `CFG_MAX_PACKET_LENGTH` (R227). -/
  | cfgMaxPacketLength (m : Option Nat)
  /-- `0x42` `CFG_MIN_PACKET_LENGTH` (R228). -/
  | cfgMinPacketLength (m : Option Nat)
  /-- `0x43` `CFG_SECONDARY_HEADER_REQUIRED` (R229). -/
  | cfgSecondaryHeaderRequired (b : Bool)
  /-- `0x44` `CFG_SYNC_BYTES` (R230). -/
  | cfgSyncBytes (y : List Byte)
  /-- `0x45` `CFG_KEEP_SYNC` (R231). -/
  | cfgKeepSync (b : Bool)
  /-- `0x46` `CFG_NUM_HEADER_BYTES` (R232). -/
  | cfgNumHeaderBytes (p : Nat)
  /-- `0x47` `CFG_KEEP_HEADER` (R233). -/
  | cfgKeepHeader (b : Bool)
  /-- `0x48` `CFG_NUM_FOOTER_BYTES` (R234). -/
  | cfgNumFooterBytes (f : Nat)
  /-- `0x49` `CFG_KEEP_FOOTER` (R235). -/
  | cfgKeepFooter (b : Bool)
  /-- `0x4A` `CFG_LITTLE_ENDIAN_HEADER` (R236). -/
  | cfgLittleEndianHeader (b : Bool)
  /-- `0x4B` `CFG_VALIDATION_CALLBACK` (R237): only the present bit travels in the command. -/
  | cfgValidationCallback (present : Bool)
  /-- `0x4F` `CFG_READ` (R238). -/
  | cfgRead
  /-- `0x7F` `RESET` (R330). -/
  | reset
deriving DecidableEq, Repr

end Sys2Proof
end

