-- ==== Sys2Proof/WellFormed.lean ====
section
/-! DEFINITION. Which operations the interface can carry. The operand types settle every width but that of the
naturals of `LEN_W` bits (spec/30_encoding.md R105, spec/00_scope.md R10). -/

namespace Sys2Proof

/-- A natural of at most `LEN_W` bits (R105). -/
def lenFits (P : Params) (n : Nat) : Bool :=
  decide (n < 2 ^ P.lenW)

/-- An absent bound, or one of at most `LEN_W` bits (R31, R32). -/
def optLenFits (P : Params) : Option Nat → Bool
  | none => true
  | some m => lenFits P m

/-- Every operand is one the interface can present, for a block built with the parameters `P`. A sync marker longer
than `SYNC_MAX` can be presented: the block answers it with `ERR_ARG` (R230). -/
def WellFormed (P : Params) (i : Instr) : Bool :=
  match i with
  | .decode _ _ => true
  | .decodeSlice _ _ => true
  | .encode _ _ => true
  | .getVersion _ => true
  | .getPacketType _ => true
  | .getSecHdrFlag _ => true
  | .getApid _ => true
  | .getSeqType _ => true
  | .getSeqCount _ => true
  | .getLengthField _ => true
  | .packetLength _ => true
  | .dataLength _ => true
  | .setVersion _ _ => true
  | .setPacketType _ _ => true
  | .setSecHdrFlag _ _ => true
  | .setApid _ _ => true
  | .setSeqType _ _ => true
  | .setSeqCount _ _ => true
  | .setLengthField _ _ => true
  | .setPacketLength _ total => lenFits P total
  | .recvBytes _ => true
  | .recvSlice _ => true
  | .allowApid _ => true
  | .currentHeader => true
  | .currentStatus => true
  | .reject => true
  | .pullPacket => true
  | .next => true
  | .getSkipped => true
  | .cfgAllowedApids _ => true
  | .cfgMaxPacketLength m => optLenFits P m
  | .cfgMinPacketLength m => optLenFits P m
  | .cfgSecondaryHeaderRequired _ => true
  | .cfgSyncBytes _ => true
  | .cfgKeepSync _ => true
  | .cfgNumHeaderBytes p => lenFits P p
  | .cfgKeepHeader _ => true
  | .cfgNumFooterBytes f => lenFits P f
  | .cfgKeepFooter _ => true
  | .cfgLittleEndianHeader _ => true
  | .cfgValidationCallback _ => true
  | .cfgRead => true
  | .reset => true

end Sys2Proof
end

