-- ==== Sys2Proof/Decode.lean ====
section
/-! DEFINITION. The operation codes (spec/30_encoding.md R106, R110), the command the collaborator sends (R105), the
decoder from a command to an operation and the encoder back. The wires of a command are those of R105; the bit numbering
of `commandOfTableWord` above bit 7 is the model's own (log 4). -/

namespace Sys2Proof

/-- The rows of the operation table R110. -/
inductive Op where
  | decode
  | decodeSlice
  | encode
  | getVersion
  | getPacketType
  | getSecHdrFlag
  | getApid
  | getSeqType
  | getSeqCount
  | getLengthField
  | packetLength
  | dataLength
  | setVersion
  | setPacketType
  | setSecHdrFlag
  | setApid
  | setSeqType
  | setSeqCount
  | setLengthField
  | setPacketLength
  | recvBytes
  | recvSlice
  | allowApid
  | currentHeader
  | currentStatus
  | reject
  | pullPacket
  | next
  | getSkipped
  | cfgAllowedApids
  | cfgMaxPacketLength
  | cfgMinPacketLength
  | cfgSecondaryHeaderRequired
  | cfgSyncBytes
  | cfgKeepSync
  | cfgNumHeaderBytes
  | cfgKeepHeader
  | cfgNumFooterBytes
  | cfgKeepFooter
  | cfgLittleEndianHeader
  | cfgValidationCallback
  | cfgRead
  | reset
deriving DecidableEq, Repr

/-- The CODEC rows. -/
def codecOps : List Op :=
  [.decode, .decodeSlice, .encode]

/-- The ACCESSOR rows. -/
def accessorOps : List Op :=
  [.getVersion, .getPacketType, .getSecHdrFlag, .getApid, .getSeqType,
   .getSeqCount, .getLengthField, .packetLength, .dataLength]

/-- The MUTATOR rows. -/
def mutatorOps : List Op :=
  [.setVersion, .setPacketType, .setSecHdrFlag, .setApid, .setSeqType,
   .setSeqCount, .setLengthField, .setPacketLength]

/-- The FRAMER rows. -/
def framerOps : List Op :=
  [.recvBytes, .recvSlice, .allowApid, .currentHeader, .currentStatus,
   .reject, .pullPacket, .next, .getSkipped]

/-- The CONFIG rows. -/
def configOps : List Op :=
  [.cfgAllowedApids, .cfgMaxPacketLength, .cfgMinPacketLength, .cfgSecondaryHeaderRequired, .cfgSyncBytes,
   .cfgKeepSync, .cfgNumHeaderBytes, .cfgKeepHeader, .cfgNumFooterBytes, .cfgKeepFooter,
   .cfgLittleEndianHeader, .cfgValidationCallback, .cfgRead]

/-- The SYSTEM rows. -/
def systemOps : List Op :=
  [.reset]

/-- Every row of R110, in the table's order. -/
def allOps : List Op :=
  codecOps ++ accessorOps ++ mutatorOps ++ framerOps ++ configOps ++ systemOps

/-- The 8-bit operation code of a row (R110). -/
def opCode : Op → BitVec 8
  | .decode => 0x00
  | .decodeSlice => 0x01
  | .encode => 0x02
  | .getVersion => 0x10
  | .getPacketType => 0x11
  | .getSecHdrFlag => 0x12
  | .getApid => 0x13
  | .getSeqType => 0x14
  | .getSeqCount => 0x15
  | .getLengthField => 0x16
  | .packetLength => 0x17
  | .dataLength => 0x18
  | .setVersion => 0x20
  | .setPacketType => 0x21
  | .setSecHdrFlag => 0x22
  | .setApid => 0x23
  | .setSeqType => 0x24
  | .setSeqCount => 0x25
  | .setLengthField => 0x26
  | .setPacketLength => 0x27
  | .recvBytes => 0x30
  | .recvSlice => 0x31
  | .allowApid => 0x32
  | .currentHeader => 0x33
  | .currentStatus => 0x34
  | .reject => 0x35
  | .pullPacket => 0x36
  | .next => 0x37
  | .getSkipped => 0x38
  | .cfgAllowedApids => 0x40
  | .cfgMaxPacketLength => 0x41
  | .cfgMinPacketLength => 0x42
  | .cfgSecondaryHeaderRequired => 0x43
  | .cfgSyncBytes => 0x44
  | .cfgKeepSync => 0x45
  | .cfgNumHeaderBytes => 0x46
  | .cfgKeepHeader => 0x47
  | .cfgNumFooterBytes => 0x48
  | .cfgKeepFooter => 0x49
  | .cfgLittleEndianHeader => 0x4A
  | .cfgValidationCallback => 0x4B
  | .cfgRead => 0x4F
  | .reset => 0x7F

/-- The mnemonic of a row (R110). -/
def opMnemonic : Op → String
  | .decode => "DECODE"
  | .decodeSlice => "DECODE_SLICE"
  | .encode => "ENCODE"
  | .getVersion => "GET_VERSION"
  | .getPacketType => "GET_PACKET_TYPE"
  | .getSecHdrFlag => "GET_SEC_HDR_FLAG"
  | .getApid => "GET_APID"
  | .getSeqType => "GET_SEQ_TYPE"
  | .getSeqCount => "GET_SEQ_COUNT"
  | .getLengthField => "GET_LENGTH_FIELD"
  | .packetLength => "PACKET_LENGTH"
  | .dataLength => "DATA_LENGTH"
  | .setVersion => "SET_VERSION"
  | .setPacketType => "SET_PACKET_TYPE"
  | .setSecHdrFlag => "SET_SEC_HDR_FLAG"
  | .setApid => "SET_APID"
  | .setSeqType => "SET_SEQ_TYPE"
  | .setSeqCount => "SET_SEQ_COUNT"
  | .setLengthField => "SET_LENGTH_FIELD"
  | .setPacketLength => "SET_PACKET_LENGTH"
  | .recvBytes => "RECV_BYTES"
  | .recvSlice => "RECV_SLICE"
  | .allowApid => "ALLOW_APID"
  | .currentHeader => "CURRENT_HEADER"
  | .currentStatus => "CURRENT_STATUS"
  | .reject => "REJECT"
  | .pullPacket => "PULL_PACKET"
  | .next => "NEXT"
  | .getSkipped => "GET_SKIPPED"
  | .cfgAllowedApids => "CFG_ALLOWED_APIDS"
  | .cfgMaxPacketLength => "CFG_MAX_PACKET_LENGTH"
  | .cfgMinPacketLength => "CFG_MIN_PACKET_LENGTH"
  | .cfgSecondaryHeaderRequired => "CFG_SECONDARY_HEADER_REQUIRED"
  | .cfgSyncBytes => "CFG_SYNC_BYTES"
  | .cfgKeepSync => "CFG_KEEP_SYNC"
  | .cfgNumHeaderBytes => "CFG_NUM_HEADER_BYTES"
  | .cfgKeepHeader => "CFG_KEEP_HEADER"
  | .cfgNumFooterBytes => "CFG_NUM_FOOTER_BYTES"
  | .cfgKeepFooter => "CFG_KEEP_FOOTER"
  | .cfgLittleEndianHeader => "CFG_LITTLE_ENDIAN_HEADER"
  | .cfgValidationCallback => "CFG_VALIDATION_CALLBACK"
  | .cfgRead => "CFG_READ"
  | .reset => "RESET"

/-- The row an operation code names; `none` for an unassigned code (R106). -/
def opOfCode (code : BitVec 8) : Option Op :=
  allOps.find? fun o => opCode o == code

/-- The row of an operation. -/
def instrOp (i : Instr) : Op :=
  match i with
  | .decode _ _ => .decode
  | .decodeSlice _ _ => .decodeSlice
  | .encode _ _ => .encode
  | .getVersion _ => .getVersion
  | .getPacketType _ => .getPacketType
  | .getSecHdrFlag _ => .getSecHdrFlag
  | .getApid _ => .getApid
  | .getSeqType _ => .getSeqType
  | .getSeqCount _ => .getSeqCount
  | .getLengthField _ => .getLengthField
  | .packetLength _ => .packetLength
  | .dataLength _ => .dataLength
  | .setVersion _ _ => .setVersion
  | .setPacketType _ _ => .setPacketType
  | .setSecHdrFlag _ _ => .setSecHdrFlag
  | .setApid _ _ => .setApid
  | .setSeqType _ _ => .setSeqType
  | .setSeqCount _ _ => .setSeqCount
  | .setLengthField _ _ => .setLengthField
  | .setPacketLength _ _ => .setPacketLength
  | .recvBytes _ => .recvBytes
  | .recvSlice _ => .recvSlice
  | .allowApid _ => .allowApid
  | .currentHeader => .currentHeader
  | .currentStatus => .currentStatus
  | .reject => .reject
  | .pullPacket => .pullPacket
  | .next => .next
  | .getSkipped => .getSkipped
  | .cfgAllowedApids _ => .cfgAllowedApids
  | .cfgMaxPacketLength _ => .cfgMaxPacketLength
  | .cfgMinPacketLength _ => .cfgMinPacketLength
  | .cfgSecondaryHeaderRequired _ => .cfgSecondaryHeaderRequired
  | .cfgSyncBytes _ => .cfgSyncBytes
  | .cfgKeepSync _ => .cfgKeepSync
  | .cfgNumHeaderBytes _ => .cfgNumHeaderBytes
  | .cfgKeepHeader _ => .cfgKeepHeader
  | .cfgNumFooterBytes _ => .cfgNumFooterBytes
  | .cfgKeepFooter _ => .cfgKeepFooter
  | .cfgLittleEndianHeader _ => .cfgLittleEndianHeader
  | .cfgValidationCallback _ => .cfgValidationCallback
  | .cfgRead => .cfgRead
  | .reset => .reset

/-- The configuration field number a `CFG_*` code carries in its low four bits (R111). -/
def cfgFieldNumber (code : BitVec 8) : BitVec 4 :=
  code.setWidth 4

/-- One command of the transaction interface (R105). -/
structure Command where
  /-- 8-bit operation code (R106). -/
  op : BitVec 8
  /-- byte order, `false` big-endian, `true` little-endian. -/
  order : Bool
  /-- header value, `W[0]` in bits 47 to 32. -/
  hdr : BitVec 48
  /-- a natural of at most `LEN_W` bits. -/
  val : Nat
  /-- the present bit of an optional `val`. -/
  present : Bool
  /-- a byte sequence with its length. -/
  data : List Byte
  /-- a 2048-bit bitmap (`CFG_ALLOWED_APIDS` only). -/
  set : ApidSet
  /-- the present bit of `set`. -/
  setPresent : Bool
deriving DecidableEq, Repr

/-- A command whose operand wires are all zero. -/
def idleCommand (code : BitVec 8) : Command :=
  { op := code, order := false, hdr := 0, val := 0, present := false, data := [], set := 0, setPresent := false }

/-- Why a command is no operation. -/
inductive DecodeError where
  /-- The operation code is not in the table of R110 (R106). -/
  | unassignedOp (op : BitVec 8)
  /-- The operand is one that the operation's port cannot carry (R160, U1), or `DECODE` data of a length other than
  6 (R130). -/
  | operandNotPresentable (op : BitVec 8)
deriving DecidableEq, Repr

/-- The header value on 48 wires: `W[0]` in bits 47 to 32, `W[1]` in 31 to 16, `W[2]` in 15 to 0 (R105). -/
def packHeader (h : Header) : BitVec 48 :=
  h.w0 ++ h.w1 ++ h.w2

/-- The header value read back from its 48 wires (R105). -/
def unpackHeader (b : BitVec 48) : Header :=
  { w0 := b.extractLsb' 32 16, w1 := b.extractLsb' 16 16, w2 := b.extractLsb' 0 16 }

/-- The six bytes of a region, first on the wire first (R11, R90). -/
def regionBytes (r : Region) : List Byte :=
  [r.b0, r.b1, r.b2, r.b3, r.b4, r.b5]

/-- A sequence of exactly six bytes as a region; a sequence of another length is no region (R130). -/
def regionOf (d : List Byte) : Option Region :=
  match d with
  | [b0, b1, b2, b3, b4, b5] => some ⟨b0, b1, b2, b3, b4, b5⟩
  | _ => none

/-- The byte order of an `order` wire: 0 big-endian, 1 little-endian (R105). -/
def orderOf (b : Bool) : ByteOrder :=
  if b then .le else .be

/-- The `order` wire of a byte order (R105). -/
def orderBit (o : ByteOrder) : Bool :=
  match o with
  | .be => false
  | .le => true

/-- A value on an `n`-bit port; a wider value cannot be presented (R160, U1). -/
def portVal (n v : Nat) : Option (BitVec n) :=
  if v < 2 ^ n then some (BitVec.ofNat n v) else none

/-- A Boolean on a 1-bit port (R14). -/
def portBool (v : Nat) : Option Bool :=
  (portVal 1 v).map fun b => b == 1

/-- A natural of `LEN_W` bits (R105). -/
def portLen (P : Params) (v : Nat) : Option Nat :=
  if lenFits P v then some v else none

/-- An optional natural of `LEN_W` bits: the present bit, then the value (R105, R227). -/
def portOptLen (P : Params) (present : Bool) (v : Nat) : Option (Option Nat) :=
  if present then (portLen P v).map some else some none

/-- The operation a command with the row `o` presents, read from the wires that row uses (R110); every other wire is
ignored (R105). `none` where the operand cannot be presented. -/
def decodeOperands (P : Params) (o : Op) (c : Command) : Option Instr :=
  match o with
  | .decode => (regionOf c.data).map fun r => .decode r (orderOf c.order)
  | .decodeSlice => some (.decodeSlice c.data (orderOf c.order))
  | .encode => some (.encode (unpackHeader c.hdr) (orderOf c.order))
  | .getVersion => some (.getVersion (unpackHeader c.hdr))
  | .getPacketType => some (.getPacketType (unpackHeader c.hdr))
  | .getSecHdrFlag => some (.getSecHdrFlag (unpackHeader c.hdr))
  | .getApid => some (.getApid (unpackHeader c.hdr))
  | .getSeqType => some (.getSeqType (unpackHeader c.hdr))
  | .getSeqCount => some (.getSeqCount (unpackHeader c.hdr))
  | .getLengthField => some (.getLengthField (unpackHeader c.hdr))
  | .packetLength => some (.packetLength (unpackHeader c.hdr))
  | .dataLength => some (.dataLength (unpackHeader c.hdr))
  | .setVersion => (portVal 3 c.val).map (.setVersion (unpackHeader c.hdr))
  | .setPacketType => (portVal 1 c.val).map (.setPacketType (unpackHeader c.hdr))
  | .setSecHdrFlag => (portVal 1 c.val).map (.setSecHdrFlag (unpackHeader c.hdr))
  | .setApid => (portVal 11 c.val).map (.setApid (unpackHeader c.hdr))
  | .setSeqType => (portVal 2 c.val).map (.setSeqType (unpackHeader c.hdr))
  | .setSeqCount => (portVal 14 c.val).map (.setSeqCount (unpackHeader c.hdr))
  | .setLengthField => (portVal 16 c.val).map (.setLengthField (unpackHeader c.hdr))
  | .setPacketLength => (portLen P c.val).map (.setPacketLength (unpackHeader c.hdr))
  | .recvBytes => some (.recvBytes c.data)
  | .recvSlice => some (.recvSlice c.data)
  | .allowApid => (portVal 11 c.val).map .allowApid
  | .currentHeader => some .currentHeader
  | .currentStatus => some .currentStatus
  | .reject => some .reject
  | .pullPacket => some .pullPacket
  | .next => some .next
  | .getSkipped => some .getSkipped
  | .cfgAllowedApids => some (.cfgAllowedApids (if c.setPresent then some c.set else none))
  | .cfgMaxPacketLength => (portOptLen P c.present c.val).map .cfgMaxPacketLength
  | .cfgMinPacketLength => (portOptLen P c.present c.val).map .cfgMinPacketLength
  | .cfgSecondaryHeaderRequired => (portBool c.val).map .cfgSecondaryHeaderRequired
  | .cfgSyncBytes => some (.cfgSyncBytes c.data)
  | .cfgKeepSync => (portBool c.val).map .cfgKeepSync
  | .cfgNumHeaderBytes => (portLen P c.val).map .cfgNumHeaderBytes
  | .cfgKeepHeader => (portBool c.val).map .cfgKeepHeader
  | .cfgNumFooterBytes => (portLen P c.val).map .cfgNumFooterBytes
  | .cfgKeepFooter => (portBool c.val).map .cfgKeepFooter
  | .cfgLittleEndianHeader => (portBool c.val).map .cfgLittleEndianHeader
  | .cfgValidationCallback => some (.cfgValidationCallback c.present)
  | .cfgRead => some .cfgRead
  | .reset => some .reset

/-- The decoder: total on every command, and a command that is no operation is rejected by name. -/
def decode (P : Params) (c : Command) : Except DecodeError Instr :=
  match opOfCode c.op with
  | none => .error (.unassignedOp c.op)
  | some o =>
    match decodeOperands P o c with
    | none => .error (.operandNotPresentable c.op)
    | some i => .ok i

/-- The value wire of a Boolean (R14). -/
def boolVal (b : Bool) : Nat :=
  if b then 1 else 0

/-- The encoder: the command that presents an operation, with the wires it does not use at zero (R105, R110). -/
def encode (i : Instr) : Command :=
  let c := idleCommand (opCode (instrOp i))
  match i with
  | .decode data order => { c with data := regionBytes data, order := orderBit order }
  | .decodeSlice data order => { c with data := data, order := orderBit order }
  | .encode hdr order => { c with hdr := packHeader hdr, order := orderBit order }
  | .getVersion hdr => { c with hdr := packHeader hdr }
  | .getPacketType hdr => { c with hdr := packHeader hdr }
  | .getSecHdrFlag hdr => { c with hdr := packHeader hdr }
  | .getApid hdr => { c with hdr := packHeader hdr }
  | .getSeqType hdr => { c with hdr := packHeader hdr }
  | .getSeqCount hdr => { c with hdr := packHeader hdr }
  | .getLengthField hdr => { c with hdr := packHeader hdr }
  | .packetLength hdr => { c with hdr := packHeader hdr }
  | .dataLength hdr => { c with hdr := packHeader hdr }
  | .setVersion hdr v => { c with hdr := packHeader hdr, val := v.toNat }
  | .setPacketType hdr v => { c with hdr := packHeader hdr, val := v.toNat }
  | .setSecHdrFlag hdr v => { c with hdr := packHeader hdr, val := v.toNat }
  | .setApid hdr v => { c with hdr := packHeader hdr, val := v.toNat }
  | .setSeqType hdr v => { c with hdr := packHeader hdr, val := v.toNat }
  | .setSeqCount hdr v => { c with hdr := packHeader hdr, val := v.toNat }
  | .setLengthField hdr v => { c with hdr := packHeader hdr, val := v.toNat }
  | .setPacketLength hdr total => { c with hdr := packHeader hdr, val := total }
  | .recvBytes data => { c with data := data }
  | .recvSlice data => { c with data := data }
  | .allowApid apid => { c with val := apid.toNat }
  | .currentHeader => c
  | .currentStatus => c
  | .reject => c
  | .pullPacket => c
  | .next => c
  | .getSkipped => c
  | .cfgAllowedApids none => c
  | .cfgAllowedApids (some a) => { c with set := a, setPresent := true }
  | .cfgMaxPacketLength none => c
  | .cfgMaxPacketLength (some m) => { c with val := m, present := true }
  | .cfgMinPacketLength none => c
  | .cfgMinPacketLength (some m) => { c with val := m, present := true }
  | .cfgSecondaryHeaderRequired b => { c with val := boolVal b }
  | .cfgSyncBytes y => { c with data := y }
  | .cfgKeepSync b => { c with val := boolVal b }
  | .cfgNumHeaderBytes p => { c with val := p }
  | .cfgKeepHeader b => { c with val := boolVal b }
  | .cfgNumFooterBytes f => { c with val := f }
  | .cfgKeepFooter b => { c with val := boolVal b }
  | .cfgLittleEndianHeader b => { c with val := boolVal b }
  | .cfgValidationCallback present => { c with present := present }
  | .cfgRead => c
  | .reset => c

/-- The command an instruction word of opcode_table.json stands for: bits 7 to 0 are the operation code; above them
the model numbers the one-bit wires (8 `order`, 9 `present`, 10 `setPresent`), then `hdr` (58 to 11) and `val` (from 59
up). The table gives the operands no bits, so they are zero: the data operand is six zero bytes, the one length that every
operation with a data operand takes (log 4). -/
def commandOfTableWord (nbits w : Nat) : Command :=
  let v := w % 2 ^ nbits
  { op := BitVec.ofNat 8 v, order := v.testBit 8, present := v.testBit 9, setPresent := v.testBit 10
    hdr := BitVec.ofNat 48 (v >>> 11), val := v >>> 59, data := List.replicate 6 0, set := 0 }

/-- The operation the decoder reads from an instruction word of the table, for a block built with the defaults of R10. -/
def decodeTableWord (nbits w : Nat) : Option Instr :=
  (decode Params.default (commandOfTableWord nbits w)).toOption

end Sys2Proof
end

