-- ==== Sys2Proof/Machine/State.lean ====
section
/-! DEFINITION. The machine's state as plain data (spec/10_state.md R25 to R41), the responses it gives
(spec/30_encoding.md R103 to R105), the outcomes that stop it, and the state after reset (spec/10_state.md R45). -/

namespace Sys2Proof.Machine

/-- No operation of this block traps, aborts or leaves it unable to continue (spec/00_scope.md R16,
spec/60_exceptions.md R290): there is no fault. -/
inductive Fault where
deriving DecidableEq, Repr

/-- Why a step refuses. -/
inductive Refusal where
  /-- Raised by an arm of `exec` without a meaning; no arm does. Safe. -/
  | notModelled (mnemonic : String)
  /-- Raised by `rejectCommand` when a command carries an operand its operation's port cannot carry: a value wider
  than the field or than `LEN_W` (U1, R160, R105), or `DECODE` data of a length other than 6 (R130). Safe: such a command
  cannot be presented to the block. -/
  | operandNotPresentable (op : BitVec 8)
deriving DecidableEq, Repr

/-- The ten status values (R103). -/
inductive Status where
  | notEnoughBytesForHeader
  | syncNotFound
  | exceedsMaxPacketLength
  | belowMinPacketLength
  | notEnoughBytesForPacket
  | invalidVersion
  | secondaryHeaderInvalid
  | validationFailed
  | apidNotAllowed
  | validPacket
deriving DecidableEq, Repr

/-- The response codes (R104). -/
inductive ResponseCode where
  | ok
  | none
  | errEmpty
  | errFull
  | errIllegalOp
  | errArg
deriving DecidableEq, Repr

/-- The fields of a response that an operation drives (R105, R110); a field left at `none` is one the operation does
not use. -/
structure Result where
  rc : ResponseCode
  status : Option Status := none
  hdr : Option Header := none
  val : Option Nat := none
  data : Option (List Byte) := none
  cfg : Option ParserConfig := none
deriving DecidableEq, Repr

/-- A response on the interface (R105): `rc` 4 bits, `status` 4 bits, `hdr` 48 bits, `val`, `data`, and the
configuration record of `CFG_READ` (R238). -/
structure Response where
  rc : BitVec 4
  status : BitVec 4
  hdr : BitVec 48
  val : Nat
  data : List Byte
  cfg : ParserConfig
deriving DecidableEq, Repr

/-- The state: the framer's own (R25), the two ghost counters of R24, and the model's interface fields
(INVENTORY.md, "State"). -/
structure State where
  /-- `BUF` (R26), head first. -/
  buf : List Byte
  /-- `SKIPPED` (R27). -/
  skipped : Nat
  /-- `END_LATCH` (R28). -/
  endLatch : Bool
  /-- `CFG` (R30 to R41). -/
  cfg : ParserConfig
  /-- ghost `G_IN` (R24): bytes appended since reset; no operation reads it. -/
  gIn : Nat
  /-- ghost `G_HEAD` (R24): bytes removed from the head since reset; no operation reads it. -/
  gHead : Nat
  /-- the parameters the block was built with (R10, log 1); no operation writes them. -/
  par : Params
  /-- the commands the collaborator has yet to send, next first (R105, log 3). -/
  cmds : List Command
  /-- the last response given; `none` before the first (R105, log 8). -/
  resp : Option Response
  /-- the model's own counter of free values (log 7); advanced by every response. -/
  freeSeq : Nat
deriving DecidableEq, Repr

/-- The reset configuration (R45). -/
def ParserConfig.reset : ParserConfig :=
  { allowedApids := none
    maxPacketLength := none
    minPacketLength := none
    secondaryHeaderRequired := false
    syncBytes := []
    keepSync := false
    numHeaderBytes := 0
    keepHeader := false
    numFooterBytes := 0
    keepFooter := false
    littleEndianHeader := false
    validationCallback := false }

/-- The machine right after power-on reset (R45, R330). -/
def State.reset : State :=
  { buf := []
    skipped := 0
    endLatch := false
    cfg := ParserConfig.reset
    gIn := 0
    gHead := 0
    par := Params.default
    cmds := []
    resp := none
    freeSeq := 0 }

end Sys2Proof.Machine
end

