-- ==== Sys2Proof/Machine/Operands.lean ====
section
/-! DEFINITION. The header codec's shared operations: word assembly under a byte order (spec/30_encoding.md R93), the
seven fields (R94, R96), the length derivations (spec/43_codec_length.md R180 to R182), the accessors on raw bytes
(spec/40_codec_decode_encode.md R133, R135) and the named views (spec/41_codec_accessors.md R148,
spec/42_codec_mutators.md R169). All are pure (spec/10_state.md R20). -/

namespace Sys2Proof.Machine

/-- A word from its two bytes, `x` the one at the lower offset (R93). -/
def wordOf (order : ByteOrder) (x y : Byte) : Word :=
  match order with
  | .be => x ++ y
  | .le => y ++ x

/-- The byte of a word at the lower offset (R93). -/
def firstByte (order : ByteOrder) (w : Word) : Byte :=
  match order with
  | .be => w.extractLsb' 8 8
  | .le => w.extractLsb' 0 8

/-- The byte of a word at the higher offset (R93). -/
def secondByte (order : ByteOrder) (w : Word) : Byte :=
  match order with
  | .be => w.extractLsb' 0 8
  | .le => w.extractLsb' 8 8

/-- `DECODE` (R130): the header value of a 6-byte region. -/
def decodeHeader (b : Region) (order : ByteOrder) : Header :=
  { w0 := wordOf order b.b0 b.b1, w1 := wordOf order b.b2 b.b3, w2 := wordOf order b.b4 b.b5 }

/-- `ENCODE` (R132): the 6-byte region of a header value. -/
def encodeHeader (h : Header) (order : ByteOrder) : Region :=
  { b0 := firstByte order h.w0, b1 := secondByte order h.w0
    b2 := firstByte order h.w1, b3 := secondByte order h.w1
    b4 := firstByte order h.w2, b5 := secondByte order h.w2 }

/-- `DECODE_SLICE` (R131): the first six bytes, or `none` when there are fewer. -/
def decodeSlice (d : List Byte) (order : ByteOrder) : Option Header :=
  (regionOf (d.take 6)).map fun r => decodeHeader r order

/-- `Field(w, sh, n)` of R96. -/
def field (w : Word) (sh n : Nat) : BitVec n :=
  (w >>> sh).setWidth n

/-- The mask `((2^n) - 1) << sh` of R96. -/
def fieldMask (sh n : Nat) : Word :=
  (BitVec.allOnes n).setWidth 16 <<< sh

/-- `Insert(w, sh, n, v)` of R96: the bits of the field replaced, every other bit kept. -/
def insertField (w : Word) (sh n : Nat) (v : BitVec n) : Word :=
  (w &&& ~~~fieldMask sh n) ||| (v.setWidth 16 <<< sh)

/-- Version, `W[0][15:13]` (R94, R141). -/
def getVersion (h : Header) : BitVec 3 := field h.w0 13 3

/-- Packet type, `W[0][12]` (R94, R142). -/
def getPacketType (h : Header) : BitVec 1 := field h.w0 12 1

/-- Secondary-header flag, `W[0][11]` (R94, R143). -/
def getSecHdrFlag (h : Header) : BitVec 1 := field h.w0 11 1

/-- APID, `W[0][10:0]` (R94, R144). -/
def getApid (h : Header) : Apid := field h.w0 0 11

/-- Sequence flag, `W[1][15:14]` (R94, R145). -/
def getSeqType (h : Header) : BitVec 2 := field h.w1 14 2

/-- Sequence count, `W[1][13:0]` (R94, R146). -/
def getSeqCount (h : Header) : BitVec 14 := field h.w1 0 14

/-- Length field `L`, `W[2][15:0]` (R94, R147). -/
def getLengthField (h : Header) : BitVec 16 := field h.w2 0 16

/-- R161. -/
def setVersion (h : Header) (v : BitVec 3) : Header := { h with w0 := insertField h.w0 13 3 v }

/-- R162. -/
def setPacketType (h : Header) (v : BitVec 1) : Header := { h with w0 := insertField h.w0 12 1 v }

/-- R163. -/
def setSecHdrFlag (h : Header) (v : BitVec 1) : Header := { h with w0 := insertField h.w0 11 1 v }

/-- R164. -/
def setApid (h : Header) (v : Apid) : Header := { h with w0 := insertField h.w0 0 11 v }

/-- R165. -/
def setSeqType (h : Header) (v : BitVec 2) : Header := { h with w1 := insertField h.w1 14 2 v }

/-- R166. -/
def setSeqCount (h : Header) (v : BitVec 14) : Header := { h with w1 := insertField h.w1 0 14 v }

/-- R167. -/
def setLengthField (h : Header) (v : BitVec 16) : Header := { h with w2 := insertField h.w2 0 16 v }

/-- `packet_length = L + 7`, a natural (R101, R180). -/
def packetLength (h : Header) : Nat := (getLengthField h).toNat + 7

/-- `data_length = L + 1`, a natural (R101, R181). -/
def dataLength (h : Header) : Nat := (getLengthField h).toNat + 1

/-- `SET_PACKET_LENGTH` (R182): `none` below 7, and above 65542, where `total - 7` does not fit the field. -/
def setPacketLength (h : Header) (total : Nat) : Option Header :=
  if total < 7 then none
  else if total > 65542 then none
  else some (setLengthField h (BitVec.ofNat 16 (total - 7)))

/-- A header built from its seven fields (R135, R149). -/
def headerOfFields (version : BitVec 3) (type : BitVec 1) (secHdr : BitVec 1) (apid : Apid)
    (seqFlag : BitVec 2) (seqCount : BitVec 14) (length : BitVec 16) : Header :=
  { w0 := version ++ type ++ secHdr ++ apid, w1 := seqFlag ++ seqCount, w2 := length }

/-- The width of a field in bits (R94). -/
abbrev fieldWidth : HeaderField → Nat
  | .version => 3
  | .packetType => 1
  | .secHdrFlag => 1
  | .apid => 11
  | .seqType => 2
  | .seqCount => 14
  | .lengthField => 16

/-- `GET_x(H)` for a field `x` (R140, R168). -/
def getField (x : HeaderField) (h : Header) : BitVec (fieldWidth x) :=
  match x with
  | .version => getVersion h
  | .packetType => getPacketType h
  | .secHdrFlag => getSecHdrFlag h
  | .apid => getApid h
  | .seqType => getSeqType h
  | .seqCount => getSeqCount h
  | .lengthField => getLengthField h

/-- `SET_x(H, v)` for a field `x` (R160, R168). -/
def setField (x : HeaderField) (h : Header) (v : BitVec (fieldWidth x)) : Header :=
  match x with
  | .version => setVersion h v
  | .packetType => setPacketType h v
  | .secHdrFlag => setSecHdrFlag h v
  | .apid => setApid h v
  | .seqType => setSeqType h v
  | .seqCount => setSeqCount h v
  | .lengthField => setLengthField h v

/-- Reading a field of six raw bytes (R133). -/
def readRaw (x : HeaderField) (b : Region) (order : ByteOrder) : BitVec (fieldWidth x) :=
  getField x (decodeHeader b order)

/-- Writing a field of six raw bytes (R133). -/
def writeRaw (x : HeaderField) (b : Region) (order : ByteOrder) (v : BitVec (fieldWidth x)) : Region :=
  encodeHeader (setField x (decodeHeader b order) v) order

/-- The region with the two bytes of every word exchanged (R134). -/
def swapBytes (b : Region) : Region :=
  { b0 := b.b1, b1 := b.b0, b2 := b.b3, b3 := b.b2, b4 := b.b5, b5 := b.b4 }

/-- R148. -/
def packetTypeOf (n : Nat) : PacketType :=
  if n = 0 then .telemetry else if n = 1 then .command else .unknown

/-- R148. -/
def secHdrFlagOf (n : Nat) : SecHdrFlag :=
  if n = 0 then .notPresent else if n = 1 then .present else .unknown

/-- R148, numbered as R99 (log 14). -/
def seqFlagOf (n : Nat) : SeqFlag :=
  if n = 0 then .continuation
  else if n = 1 then .firstSegment
  else if n = 2 then .lastSegment
  else if n = 3 then .unsegmented
  else .unknown

/-- The bits of a packet-type name (R169); `unknown` has none and is refused (U2). -/
def packetTypeBits : PacketType → Option (BitVec 1)
  | .telemetry => some 0
  | .command => some 1
  | .unknown => none

/-- The bits of a secondary-header-flag name (R169, U2). -/
def secHdrFlagBits : SecHdrFlag → Option (BitVec 1)
  | .notPresent => some 0
  | .present => some 1
  | .unknown => none

/-- The bits of a sequence-flag name (R169, U2). -/
def seqFlagBits : SeqFlag → Option (BitVec 2)
  | .continuation => some 0
  | .firstSegment => some 1
  | .lastSegment => some 2
  | .unsegmented => some 3
  | .unknown => none

/-- The empty set of APIDs (R30). -/
def noApids : ApidSet := 0

/-- Membership of an APID (R30, R204). -/
def apidIn (set : ApidSet) (a : Apid) : Bool :=
  set.getLsbD a.toNat

/-- `A union {a}` (R222). -/
def addApid (set : ApidSet) (a : Apid) : ApidSet :=
  set ||| (1#2048 <<< a.toNat)

end Sys2Proof.Machine
end

