-- ==== Sys2Proof/Machine/Ops.lean ====
section
/-! DEFINITION. The operations over the byte buffer (spec/00_scope.md R15, spec/20_memory.md R60 to R72), the one-byte
advance that is this block's reaction to a malformed head (spec/46_framer_extract.md R260, spec/60_exceptions.md R302), the
frame thresholds (spec/00_scope.md R17), and taking and answering a command (spec/30_encoding.md R105, R106). -/

namespace Sys2Proof.Machine

/-- `BufRead(off, n)` (R15): `n` bytes from offset `off`; `none` where they are not all in the buffer. -/
def bufRead (buf : List Byte) (off n : Nat) : Option (List Byte) :=
  if off + n ≤ buf.length then some ((buf.drop off).take n) else none

/-- The byte at an offset from the head (R60); there is none past the tail. -/
def readByte (buf : List Byte) (i : Nat) : Option Byte :=
  buf[i]?

/-- The buffer as (offset, byte) pairs, offsets rising from 0 (R60, log 12). -/
def bufferCells (buf : List Byte) : List Host.Cell :=
  buf.zipIdx.map fun c => (c.2, c.1)

/-- A length within a capacity that is a natural or `inf` (R10). -/
def withinCap (cap : Option Nat) (n : Nat) : Bool :=
  match cap with
  | none => true
  | some c => decide (n ≤ c)

/-- The form of the buffer: at most `BUF_CAP` bytes (R26). -/
def Memory.wf (P : Params) (buf : List Byte) : Bool :=
  withinCap P.bufCap buf.length

/-- `BufAppend(d)` (R15, R26): at the tail only. -/
def bufAppend (d : List Byte) (s : State) : State :=
  { s with buf := s.buf ++ d, gIn := s.gIn + d.length }

/-- `BufDrop(n)` (R15): the `n` bytes at the head removed; every caller has `n ≤ len(BUF)`. -/
def bufDrop (n : Nat) (s : State) : State :=
  { s with buf := s.buf.drop n, gHead := s.gHead + n }

/-- `BufTake(n)` (R15): the `n` bytes at the head, returned and removed. -/
def bufTake (n : Nat) (s : State) : State × List Byte :=
  (bufDrop n s, s.buf.take n)

/-- `Advance1()` (R260), the reaction to a malformed head inside `PULL_PACKET` and `NEXT` (R302) and to `REJECT` (R304):
the byte at the head is lost and counted. Nothing is saved, no mode changes (R302). -/
def advance1 (s : State) : State :=
  { bufDrop 1 s with skipped := s.skipped + 1 }

/-- `s`: the length of the sync marker (R17). -/
def syncLen (cfg : ParserConfig) : Nat := cfg.syncBytes.length

/-- `o = s + p`: where the primary header starts (R17, R66). -/
def headerOffset (cfg : ParserConfig) : Nat := syncLen cfg + cfg.numHeaderBytes

/-- `T1_EXTRA` (R10, R196). -/
def t1Extra (P : Params) (cfg : ParserConfig) : Nat :=
  match P.t1Extra with
  | .extra n => n
  | .syncPrefixAgain => headerOffset cfg

/-- `T1 = s + p + 6 + f + T1_EXTRA`, the threshold of check 1 (R17, R196). -/
def threshold1 (P : Params) (cfg : ParserConfig) : Nat :=
  headerOffset cfg + 6 + cfg.numFooterBytes + t1Extra P cfg

/-- `T5 = s + p + plen + f`, the length of the frame whose header is `h` (R17, R66, R101). -/
def frameLength (cfg : ParserConfig) (h : Header) : Nat :=
  headerOffset cfg + packetLength h + cfg.numFooterBytes

/-- The order the framer reads the primary header in (R40, R63). -/
def framerOrder (cfg : ParserConfig) : ByteOrder :=
  if cfg.littleEndianHeader then .le else .be

/-- `HeaderAt()` (R190): the header at offset `o`, `none` while its six bytes are not all buffered. -/
def headerAt (cfg : ParserConfig) (buf : List Byte) : Option Header :=
  match bufRead buf (headerOffset cfg) 6 with
  | none => none
  | some d => decodeSlice d (framerOrder cfg)

/-- The 4-bit code of a response (R104). -/
def responseCode : ResponseCode → BitVec 4
  | .ok => 0
  | .none => 1
  | .errEmpty => 2
  | .errFull => 3
  | .errIllegalOp => 4
  | .errArg => 5

/-- The 4-bit code of a status: its place in the evaluation order (R103). -/
def statusCode : Status → BitVec 4
  | .notEnoughBytesForHeader => 1
  | .syncNotFound => 2
  | .exceedsMaxPacketLength => 3
  | .belowMinPacketLength => 4
  | .notEnoughBytesForPacket => 5
  | .invalidVersion => 6
  | .secondaryHeaderInvalid => 7
  | .validationFailed => 8
  | .apidNotAllowed => 9
  | .validPacket => 10

/-- The wires of a response: the fields of `r`, and a free value on each field the operation does not use
(R105, U14, log 7). -/
def responseOf (r : Result) (k : Nat) : Response :=
  { rc := responseCode r.rc
    status := (r.status.map statusCode).getD (Config.freeStatus k)
    hdr := (r.hdr.map packHeader).getD (Config.freeHdr k)
    val := r.val.getD (Config.freeVal k)
    data := r.data.getD (Config.freeData k)
    cfg := r.cfg.getD (Config.freeCfg k) }

/-- The response to a command put on the interface (R105). -/
def respond (r : Result) (s : State) : State :=
  { s with resp := some (responseOf r s.freeSeq), freeSeq := s.freeSeq + 1 }

/-- `OK` with no result field (R110). -/
def okResult : Result := { rc := .ok }

/-- `OK` with a header value. -/
def headerResult (h : Header) : Result := { rc := .ok, hdr := some h }

/-- `OK` with a value. -/
def valueResult (n : Nat) : Result := { rc := .ok, val := some n }

/-- `OK` with a byte sequence. -/
def dataResult (d : List Byte) : Result := { rc := .ok, data := some d }

/-- `NONE`: the operation completed and its optional result is absent (R104, R293). -/
def noneResult : Result := { rc := .none }

/-- A header value, or `NONE` (R104). -/
def optHeaderResult (h : Option Header) : Result :=
  match h with
  | some h => headerResult h
  | none => noneResult

/-- An extracted span, or `NONE` (R104). -/
def optDataResult (d : Option (List Byte)) : Result :=
  match d with
  | some d => dataResult d
  | none => noneResult

/-- An `ERR_*` response (R297): the state of the framer is left as it is (log 5). -/
def respondError (e : ResponseCode) (s : State) : State :=
  respond { rc := e } s

/-- Taking the next command from the collaborator (R105, log 3). -/
def takeCommand (s : State) : Option (Command × State) :=
  match s.cmds with
  | [] => none
  | c :: rest => some (c, { s with cmds := rest })

/-- What the block does while no command is waiting: nothing (R78, log 3). -/
def idle (s : State) : State := s

/-- A command that is no operation: an unassigned code is answered `ERR_ILLEGAL_OP` with no state change (R106); an
operand that the port cannot carry cannot be presented and is refused (U1, log 6). -/
def rejectCommand (e : DecodeError) (s : State) : Host.Outcome State Fault Refusal :=
  match e with
  | .unassignedOp _ => .next (respondError .errIllegalOp s)
  | .operandNotPresentable op => .refused (.operandNotPresentable op)

/-- `s` with the collaborator's next command being the one the table word stands for (log 4). -/
def placeTableWord (nbits w : Nat) (s : State) : State :=
  { s with cmds := commandOfTableWord nbits w :: s.cmds }

end Sys2Proof.Machine
end

