-- ==== Sys2Proof/Machine/Accessor.lean ====
section
/-! DEFINITION. The meanings of the seven field accessors (spec/41_codec_accessors.md R140 to R147) and of the two length
derivations (spec/43_codec_length.md R180, R181). -/

namespace Sys2Proof.Machine

/-- R141. -/
def execGetVersion (hdr : Header) (s : State) : Host.Outcome State Fault Refusal :=
  .next (respond (valueResult (getVersion hdr).toNat) s)

/-- R142. -/
def execGetPacketType (hdr : Header) (s : State) : Host.Outcome State Fault Refusal :=
  .next (respond (valueResult (getPacketType hdr).toNat) s)

/-- R143. -/
def execGetSecHdrFlag (hdr : Header) (s : State) : Host.Outcome State Fault Refusal :=
  .next (respond (valueResult (getSecHdrFlag hdr).toNat) s)

/-- R144. -/
def execGetApid (hdr : Header) (s : State) : Host.Outcome State Fault Refusal :=
  .next (respond (valueResult (getApid hdr).toNat) s)

/-- R145. -/
def execGetSeqType (hdr : Header) (s : State) : Host.Outcome State Fault Refusal :=
  .next (respond (valueResult (getSeqType hdr).toNat) s)

/-- R146. -/
def execGetSeqCount (hdr : Header) (s : State) : Host.Outcome State Fault Refusal :=
  .next (respond (valueResult (getSeqCount hdr).toNat) s)

/-- R147. -/
def execGetLengthField (hdr : Header) (s : State) : Host.Outcome State Fault Refusal :=
  .next (respond (valueResult (getLengthField hdr).toNat) s)

/-- R180. -/
def execPacketLength (hdr : Header) (s : State) : Host.Outcome State Fault Refusal :=
  .next (respond (valueResult (packetLength hdr)) s)

/-- R181. -/
def execDataLength (hdr : Header) (s : State) : Host.Outcome State Fault Refusal :=
  .next (respond (valueResult (dataLength hdr)) s)

end Sys2Proof.Machine
end

