-- ==== Sys2Proof/Machine/Codec.lean ====
section
/-! DEFINITION. The meanings of `DECODE`, `DECODE_SLICE` and `ENCODE` (spec/40_codec_decode_encode.md). -/

namespace Sys2Proof.Machine

/-- R130. -/
def execDecode (data : Region) (order : ByteOrder) (s : State) : Host.Outcome State Fault Refusal :=
  .next (respond (headerResult (decodeHeader data order)) s)

/-- R131. -/
def execDecodeSlice (data : List Byte) (order : ByteOrder) (s : State) : Host.Outcome State Fault Refusal :=
  .next (respond (optHeaderResult (decodeSlice data order)) s)

/-- R132. -/
def execEncode (hdr : Header) (order : ByteOrder) (s : State) : Host.Outcome State Fault Refusal :=
  .next (respond (dataResult (regionBytes (encodeHeader hdr order))) s)

end Sys2Proof.Machine
end

