-- ==== Sys2Proof/Machine/Configuration.lean ====
section
/-! DEFINITION. The meanings of the twelve configuration writes and of `CFG_READ` (spec/45_framer_input_config.md R225 to R238). -/

namespace Sys2Proof.Machine

/-- A configuration write (R225): the configuration replaced by `c`, nothing else of the framer touched. -/
def writeCfg (c : ParserConfig) (s : State) : State :=
  respond okResult { s with cfg := c }

/-- R226. -/
def execCfgAllowedApids (set : Option ApidSet) (s : State) : Host.Outcome State Fault Refusal :=
  .next (writeCfg { s.cfg with allowedApids := set } s)

/-- R227. -/
def execCfgMaxPacketLength (m : Option Nat) (s : State) : Host.Outcome State Fault Refusal :=
  .next (writeCfg { s.cfg with maxPacketLength := m } s)

/-- R228. -/
def execCfgMinPacketLength (m : Option Nat) (s : State) : Host.Outcome State Fault Refusal :=
  .next (writeCfg { s.cfg with minPacketLength := m } s)

/-- R229. -/
def execCfgSecondaryHeaderRequired (b : Bool) (s : State) : Host.Outcome State Fault Refusal :=
  .next (writeCfg { s.cfg with secondaryHeaderRequired := b } s)

/-- R230: a marker longer than `SYNC_MAX` is answered `ERR_ARG` with no change. -/
def execCfgSyncBytes (y : List Byte) (s : State) : Host.Outcome State Fault Refusal :=
  if withinCap s.par.syncMax y.length then .next (writeCfg { s.cfg with syncBytes := y } s)
  else .next (respondError .errArg s)

/-- R231. -/
def execCfgKeepSync (b : Bool) (s : State) : Host.Outcome State Fault Refusal :=
  .next (writeCfg { s.cfg with keepSync := b } s)

/-- R232. -/
def execCfgNumHeaderBytes (p : Nat) (s : State) : Host.Outcome State Fault Refusal :=
  .next (writeCfg { s.cfg with numHeaderBytes := p } s)

/-- R233. -/
def execCfgKeepHeader (b : Bool) (s : State) : Host.Outcome State Fault Refusal :=
  .next (writeCfg { s.cfg with keepHeader := b } s)

/-- R234. -/
def execCfgNumFooterBytes (f : Nat) (s : State) : Host.Outcome State Fault Refusal :=
  .next (writeCfg { s.cfg with numFooterBytes := f } s)

/-- R235. -/
def execCfgKeepFooter (b : Bool) (s : State) : Host.Outcome State Fault Refusal :=
  .next (writeCfg { s.cfg with keepFooter := b } s)

/-- R236. -/
def execCfgLittleEndianHeader (b : Bool) (s : State) : Host.Outcome State Fault Refusal :=
  .next (writeCfg { s.cfg with littleEndianHeader := b } s)

/-- R237. -/
def execCfgValidationCallback (present : Bool) (s : State) : Host.Outcome State Fault Refusal :=
  .next (writeCfg { s.cfg with validationCallback := present } s)

/-- R238: the whole configuration record, the predicate by its present bit only. -/
def execCfgRead (s : State) : Host.Outcome State Fault Refusal :=
  .next (respond { rc := .ok, cfg := some s.cfg } s)

end Sys2Proof.Machine
end

