-- ==== Sys2Proof/Machine/Flags.lean ====
section
/-! DEFINITION. The ten-step classification of the buffer's head (spec/44_framer_status.md R195 to R206) and its three
classes (R207): the only condition code of this block, recomputed each time and never stored (spec/10_state.md R29). -/

namespace Sys2Proof.Machine

/-- Check 2 fires (R197): there is a sync marker and the head differs from it. -/
def syncMismatch (cfg : ParserConfig) (buf : List Byte) : Bool :=
  decide (syncLen cfg > 0) && (buf.take (syncLen cfg) != cfg.syncBytes)

/-- Check 3 fires (R198): the inclusive upper bound is exceeded. -/
def exceedsMax (cfg : ParserConfig) (plen : Nat) : Bool :=
  match cfg.maxPacketLength with
  | none => false
  | some m => decide (plen > m)

/-- Check 4 fires (R199): below the inclusive lower bound. -/
def belowMin (cfg : ParserConfig) (plen : Nat) : Bool :=
  match cfg.minPacketLength with
  | none => false
  | some m => decide (plen < m)

/-- Check 7 fires (R202): a secondary header is required and the flag is clear. -/
def secondaryMissing (cfg : ParserConfig) (h : Header) : Bool :=
  cfg.secondaryHeaderRequired && (getSecHdrFlag h == 0)

/-- Check 8 fires (R203): the predicate is present and false on the candidate span, sync through footer. -/
def validationFails (V : List Byte → Bool) (cfg : ParserConfig) (span : List Byte) : Bool :=
  cfg.validationCallback && !V span

/-- Check 9 fires (R204): an allow-list is present and the APID is not a member. -/
def apidRejected (cfg : ParserConfig) (h : Header) : Bool :=
  match cfg.allowedApids with
  | none => false
  | some set => !apidIn set (getApid h)

/-- Checks 2 to 10 for a head whose header is `h` (R197 to R205). -/
def statusOfHeader (V : List Byte → Bool) (cfg : ParserConfig) (buf : List Byte) (h : Header) : Status :=
  if syncMismatch cfg buf then .syncNotFound
  else if exceedsMax cfg (packetLength h) then .exceedsMaxPacketLength
  else if belowMin cfg (packetLength h) then .belowMinPacketLength
  else if buf.length < frameLength cfg h then .notEnoughBytesForPacket
  else if getVersion h != 0 then .invalidVersion
  else if secondaryMissing cfg h then .secondaryHeaderInvalid
  else if validationFails V cfg (buf.take (frameLength cfg h)) then .validationFailed
  else if apidRejected cfg h then .apidNotAllowed
  else .validPacket

/-- `Status()` (R206) for the predicate `V`, the parameters, the configuration and the buffer. Once check 1 passes the
header is present (R196). -/
def statusWith (V : List Byte → Bool) (P : Params) (cfg : ParserConfig) (buf : List Byte) : Status :=
  if buf.length < threshold1 P cfg then .notEnoughBytesForHeader
  else
    match headerAt cfg buf with
    | none => .notEnoughBytesForHeader
    | some h => statusOfHeader V cfg buf h

/-- `Status()` of the block (R206), with the parameter `VALIDATE` of R10. -/
def status (s : State) : Status :=
  statusWith Config.validate s.par s.cfg s.buf

/-- "wait for more input" (R207). -/
def insufficient : Status → Bool
  | .notEnoughBytesForHeader => true
  | .syncNotFound => false
  | .exceedsMaxPacketLength => false
  | .belowMinPacketLength => false
  | .notEnoughBytesForPacket => true
  | .invalidVersion => false
  | .secondaryHeaderInvalid => false
  | .validationFailed => false
  | .apidNotAllowed => false
  | .validPacket => false

/-- The only status under which a frame is extracted (R205, R207). -/
def valid : Status → Bool
  | .notEnoughBytesForHeader => false
  | .syncNotFound => false
  | .exceedsMaxPacketLength => false
  | .belowMinPacketLength => false
  | .notEnoughBytesForPacket => false
  | .invalidVersion => false
  | .secondaryHeaderInvalid => false
  | .validationFailed => false
  | .apidNotAllowed => false
  | .validPacket => true

/-- "garbage at this position" (R207): any status that is neither valid nor insufficient. -/
def malformed (st : Status) : Bool :=
  !insufficient st && !valid st

end Sys2Proof.Machine
end

