-- ==== Sys2Proof/Machine/Extraction.lean ====
section
/-! DEFINITION. Resynchronisation, the removal of one frame, and the iteration over them
(spec/46_framer_extract.md R262, R263, R266). -/

namespace Sys2Proof.Machine

/-- The resynchronisation loop of R262, at most `n` rounds: while the head is malformed, advance one byte and classify
again. -/
def resyncRounds : Nat → State → State
  | 0, s => s
  | n + 1, s => if malformed (status s) then resyncRounds n (advance1 s) else s

/-- The resynchronisation loop of R262. One round a buffered byte is enough: each shortens the buffer and the empty
buffer is not malformed (R265, log 9). -/
def resync (s : State) : State :=
  resyncRounds s.buf.length s

/-- How many bytes `Extract` returns (R263): the packet, and the parts that are kept. -/
def spanLength (cfg : ParserConfig) (h : Header) : Nat :=
  packetLength h + (if cfg.keepSync then syncLen cfg else 0) + (if cfg.keepHeader then cfg.numHeaderBytes else 0) +
    (if cfg.keepFooter then cfg.numFooterBytes else 0)

/-- `Extract()` (R263), step by step in the order written: drop the sync marker unless kept, drop the prefix unless
kept, take the span, drop the footer unless kept. `h` is the header read before anything is dropped. -/
def extract (h : Header) (s : State) : State × List Byte :=
  let s1 := if s.cfg.keepSync then s else bufDrop (syncLen s.cfg) s
  let s2 := if s.cfg.keepHeader then s1 else bufDrop s.cfg.numHeaderBytes s1
  let taken := bufTake (spanLength s.cfg h) s2
  let s3 := if s.cfg.keepFooter then taken.1 else bufDrop s.cfg.numFooterBytes taken.1
  (s3, taken.2)

/-- `PULL_PACKET` (R262): resynchronise; at an insufficient-data status `none` with no further advancing, at
`ValidPacket` the frame extracted. -/
def pull (s : State) : State × Option (List Byte) :=
  let s1 := resync s
  if insufficient (status s1) then (s1, none)
  else
    match headerAt s1.cfg s1.buf with
    | none => (s1, none)
    | some h => ((extract h s1).1, some (extract h s1).2)

/-- The first `PULL_PACKET` of `NEXT`, and the one additional advance and retry when it found nothing and the status is
not `NotEnoughBytesForHeader` (R266). -/
def pullWithRetry (s : State) : State × Option (List Byte) :=
  match pull s with
  | (s1, some d) => (s1, some d)
  | (s1, none) => if status s1 = .notEnoughBytesForHeader then (s1, none) else pull (advance1 s1)

/-- `NEXT` (R266): with the latch set, `none` and nothing else; otherwise the pull with its retry, and the latch set
when it gave `none`. -/
def iterate (s : State) : State × Option (List Byte) :=
  if s.endLatch then (s, none)
  else
    match pullWithRetry s with
    | (s1, some d) => (s1, some d)
    | (s1, none) => ({ s1 with endLatch := true }, none)

/-- `RECV_BYTES` and `RECV_SLICE` (R220, R221): the whole append and the latch cleared, or `ERR_FULL` and nothing
changed where the buffer would exceed `BUF_CAP` (R71). -/
def receive (d : List Byte) (s : State) : State :=
  if withinCap s.par.bufCap (s.buf.length + d.length) then
    respond okResult { bufAppend d s with endLatch := false }
  else respondError .errFull s

end Sys2Proof.Machine
end

