-- ==== Sys2Proof/Machine/Framer.lean ====
section
/-! DEFINITION. The meanings of the framer's operations (spec/44_framer_status.md, spec/45_framer_input_config.md R220 to R223,
spec/46_framer_extract.md). -/

namespace Sys2Proof.Machine

/-- R220. -/
def execRecvBytes (data : List Byte) (s : State) : Host.Outcome State Fault Refusal :=
  .next (receive data s)

/-- R221: the effect of `RECV_BYTES`. -/
def execRecvSlice (data : List Byte) (s : State) : Host.Outcome State Fault Refusal :=
  .next (receive data s)

/-- The allow-list with one APID added, created if absent (R222). -/
def allowApid (list : Option ApidSet) (a : Apid) : ApidSet :=
  addApid (list.getD noApids) a

/-- R222. -/
def execAllowApid (apid : Apid) (s : State) : Host.Outcome State Fault Refusal :=
  .next (respond okResult { s with cfg := { s.cfg with allowedApids := some (allowApid s.cfg.allowedApids apid) } })

/-- R191: the header at the head, no sync comparison. -/
def execCurrentHeader (s : State) : Host.Outcome State Fault Refusal :=
  .next (respond (optHeaderResult (headerAt s.cfg s.buf)) s)

/-- R206. -/
def execCurrentStatus (s : State) : Host.Outcome State Fault Refusal :=
  .next (respond { rc := .ok, status := some (status s) } s)

/-- R261: one byte dropped whatever the status; `ERR_EMPTY` on an empty buffer (D9, log 5). -/
def execReject (s : State) : Host.Outcome State Fault Refusal :=
  if s.buf.isEmpty then .next (respondError .errEmpty s) else .next (respond okResult (advance1 s))

/-- R262. -/
def execPullPacket (s : State) : Host.Outcome State Fault Refusal :=
  .next (respond (optDataResult (pull s).2) (pull s).1)

/-- R266. -/
def execNext (s : State) : Host.Outcome State Fault Refusal :=
  .next (respond (optDataResult (iterate s).2) (iterate s).1)

/-- The counter as `GET_SKIPPED` shows it: its value, or nothing (a free value) once it has outgrown `CNT_W` bits
(R27, U11, log 10). -/
def skippedShown (s : State) : Option Nat :=
  match s.par.cntW with
  | none => some s.skipped
  | some w => if s.skipped < 2 ^ w then some s.skipped else none

/-- R223. -/
def execGetSkipped (s : State) : Host.Outcome State Fault Refusal :=
  .next (respond { rc := .ok, val := skippedShown s } s)

end Sys2Proof.Machine
end

