-- ==== Sys2Proof/Machine/Mutator.lean ====
section
/-! DEFINITION. The meanings of the seven field mutators (spec/42_codec_mutators.md R160 to R167) and of `SET_PACKET_LENGTH`
(spec/43_codec_length.md R182). -/

namespace Sys2Proof.Machine

/-- R161. -/
def execSetVersion (hdr : Header) (v : BitVec 3) (s : State) : Host.Outcome State Fault Refusal :=
  .next (respond (headerResult (setVersion hdr v)) s)

/-- R162. -/
def execSetPacketType (hdr : Header) (v : BitVec 1) (s : State) : Host.Outcome State Fault Refusal :=
  .next (respond (headerResult (setPacketType hdr v)) s)

/-- R163. -/
def execSetSecHdrFlag (hdr : Header) (v : BitVec 1) (s : State) : Host.Outcome State Fault Refusal :=
  .next (respond (headerResult (setSecHdrFlag hdr v)) s)

/-- R164. -/
def execSetApid (hdr : Header) (v : Apid) (s : State) : Host.Outcome State Fault Refusal :=
  .next (respond (headerResult (setApid hdr v)) s)

/-- R165. -/
def execSetSeqType (hdr : Header) (v : BitVec 2) (s : State) : Host.Outcome State Fault Refusal :=
  .next (respond (headerResult (setSeqType hdr v)) s)

/-- R166. -/
def execSetSeqCount (hdr : Header) (v : BitVec 14) (s : State) : Host.Outcome State Fault Refusal :=
  .next (respond (headerResult (setSeqCount hdr v)) s)

/-- R167. -/
def execSetLengthField (hdr : Header) (v : BitVec 16) (s : State) : Host.Outcome State Fault Refusal :=
  .next (respond (headerResult (setLengthField hdr v)) s)

/-- R182: a header value, or `NONE` with no new header (R293). -/
def execSetPacketLength (hdr : Header) (total : Nat) (s : State) : Host.Outcome State Fault Refusal :=
  .next (respond (optHeaderResult (setPacketLength hdr total)) s)

end Sys2Proof.Machine
end

