-- ==== Sys2Proof/Machine/System.lean ====
section
/-! DEFINITION. The meaning of `RESET` (spec/70_reset_and_hazards.md R330). -/

namespace Sys2Proof.Machine

/-- Every piece of framer state at its reset value, the ghost counters with it (R330, R45); the parameters are fixed when
the block is built (R331), the commands still to come are the collaborator's (log 3), and the counter of free values is the
model's own (log 7). -/
def resetFramer (s : State) : State :=
  { State.reset with par := s.par, cmds := s.cmds, resp := s.resp, freeSeq := s.freeSeq }

/-- R330. -/
def execReset (s : State) : Host.Outcome State Fault Refusal :=
  .next (respond okResult (resetFramer s))

end Sys2Proof.Machine
end

