-- ==== Sys2Proof/Machine/Dispatch.lean ====
section
/-! DEFINITION. One arm per operation of spec/30_encoding.md R110, each a direct call of its meaning. -/

namespace Sys2Proof.Machine

def exec (i : Instr) (s : State) : Host.Outcome State Fault Refusal :=
  match i with
  | .decode data order => Sys2Proof.Machine.execDecode data order s
  | .decodeSlice data order => Sys2Proof.Machine.execDecodeSlice data order s
  | .encode hdr order => Sys2Proof.Machine.execEncode hdr order s
  | .getVersion hdr => Sys2Proof.Machine.execGetVersion hdr s
  | .getPacketType hdr => Sys2Proof.Machine.execGetPacketType hdr s
  | .getSecHdrFlag hdr => Sys2Proof.Machine.execGetSecHdrFlag hdr s
  | .getApid hdr => Sys2Proof.Machine.execGetApid hdr s
  | .getSeqType hdr => Sys2Proof.Machine.execGetSeqType hdr s
  | .getSeqCount hdr => Sys2Proof.Machine.execGetSeqCount hdr s
  | .getLengthField hdr => Sys2Proof.Machine.execGetLengthField hdr s
  | .packetLength hdr => Sys2Proof.Machine.execPacketLength hdr s
  | .dataLength hdr => Sys2Proof.Machine.execDataLength hdr s
  | .setVersion hdr v => Sys2Proof.Machine.execSetVersion hdr v s
  | .setPacketType hdr v => Sys2Proof.Machine.execSetPacketType hdr v s
  | .setSecHdrFlag hdr v => Sys2Proof.Machine.execSetSecHdrFlag hdr v s
  | .setApid hdr v => Sys2Proof.Machine.execSetApid hdr v s
  | .setSeqType hdr v => Sys2Proof.Machine.execSetSeqType hdr v s
  | .setSeqCount hdr v => Sys2Proof.Machine.execSetSeqCount hdr v s
  | .setLengthField hdr v => Sys2Proof.Machine.execSetLengthField hdr v s
  | .setPacketLength hdr total => Sys2Proof.Machine.execSetPacketLength hdr total s
  | .recvBytes data => Sys2Proof.Machine.execRecvBytes data s
  | .recvSlice data => Sys2Proof.Machine.execRecvSlice data s
  | .allowApid apid => Sys2Proof.Machine.execAllowApid apid s
  | .currentHeader => Sys2Proof.Machine.execCurrentHeader s
  | .currentStatus => Sys2Proof.Machine.execCurrentStatus s
  | .reject => Sys2Proof.Machine.execReject s
  | .pullPacket => Sys2Proof.Machine.execPullPacket s
  | .next => Sys2Proof.Machine.execNext s
  | .getSkipped => Sys2Proof.Machine.execGetSkipped s
  | .cfgAllowedApids set => Sys2Proof.Machine.execCfgAllowedApids set s
  | .cfgMaxPacketLength m => Sys2Proof.Machine.execCfgMaxPacketLength m s
  | .cfgMinPacketLength m => Sys2Proof.Machine.execCfgMinPacketLength m s
  | .cfgSecondaryHeaderRequired b => Sys2Proof.Machine.execCfgSecondaryHeaderRequired b s
  | .cfgSyncBytes y => Sys2Proof.Machine.execCfgSyncBytes y s
  | .cfgKeepSync b => Sys2Proof.Machine.execCfgKeepSync b s
  | .cfgNumHeaderBytes p => Sys2Proof.Machine.execCfgNumHeaderBytes p s
  | .cfgKeepHeader b => Sys2Proof.Machine.execCfgKeepHeader b s
  | .cfgNumFooterBytes f => Sys2Proof.Machine.execCfgNumFooterBytes f s
  | .cfgKeepFooter b => Sys2Proof.Machine.execCfgKeepFooter b s
  | .cfgLittleEndianHeader b => Sys2Proof.Machine.execCfgLittleEndianHeader b s
  | .cfgValidationCallback present => Sys2Proof.Machine.execCfgValidationCallback present s
  | .cfgRead => Sys2Proof.Machine.execCfgRead s
  | .reset => Sys2Proof.Machine.execReset s

end Sys2Proof.Machine
end

