-- ==== Sys2Proof/Machine/Step.lean ====
section
/-! DEFINITION. One step: the next command taken, decoded and run to completion (spec/20_memory.md R72, R73;
spec/30_encoding.md R105). -/

namespace Sys2Proof.Machine

/-- One operation, or nothing while no command is waiting (log 3). -/
def step (s : State) : Host.Outcome State Fault Refusal :=
  match takeCommand s with
  | none => .next (idle s)
  | some (c, s1) =>
    match decode s1.par c with
    | .error e => rejectCommand e s1
    | .ok i => exec i s1

/-- `s` with the table word's command as the next one `step` takes (log 4). -/
def State.withFetchWord (s : State) (nbits w : Nat) : State :=
  placeTableWord nbits w s

end Sys2Proof.Machine
end

