-- ==== Sys2Proof/Safety.lean ====
section
/-! DEFINITION. What a safe run is and what holds in it (spec/10_state.md R44, spec/60_exceptions.md R290). -/

namespace Sys2Proof.Machine

/-- The configured values are ones their fields can hold (R31, R32, R34, R36, R38). -/
def ConfigLegal (P : Params) (c : ParserConfig) : Prop :=
  optLenFits P c.maxPacketLength = true ∧ optLenFits P c.minPacketLength = true ∧
    lenFits P c.numHeaderBytes = true ∧ lenFits P c.numFooterBytes = true ∧
    withinCap P.syncMax c.syncBytes.length = true

/-- The state invariants of R44, with the bound of R26 and the legal values of the configuration. -/
structure Inv (s : State) : Prop where
  /-- `len(BUF) = G_IN - G_HEAD` (R24, R44). -/
  length_ghost : s.buf.length + s.gHead = s.gIn
  /-- `SKIPPED <= G_HEAD` (R44). -/
  skipped_le : s.skipped ≤ s.gHead
  /-- at most `BUF_CAP` bytes (R26). -/
  buffer_wf : Memory.wf s.par s.buf = true
  /-- R31, R32, R34, R36, R38. -/
  config_legal : ConfigLegal s.par s.cfg

/-- A step is safe if it gives a next state: nothing traps (R290) and no command was unpresentable (U1). -/
def StepSafe (s : State) : Prop :=
  ∃ t, step s = .next t

/-- The command's wires carry what its operation's port cannot (U1, R105, R130, R160), code by code: `DECODE` data that is
not six bytes; a value of at least 2 to the field's width for a mutator and for `ALLOW_APID`; a Boolean of at least 2; a
total or a number of bytes, or a bound that is present, of more than `LEN_W` bits. -/
def NotPresentable (P : Params) (c : Command) : Prop :=
  (c.op = 0x00 ∧ c.data.length ≠ 6) ∨
  (c.op = 0x20 ∧ 2 ^ 3 ≤ c.val) ∨
  (c.op = 0x21 ∧ 2 ^ 1 ≤ c.val) ∨
  (c.op = 0x22 ∧ 2 ^ 1 ≤ c.val) ∨
  (c.op = 0x23 ∧ 2 ^ 11 ≤ c.val) ∨
  (c.op = 0x24 ∧ 2 ^ 2 ≤ c.val) ∨
  (c.op = 0x25 ∧ 2 ^ 14 ≤ c.val) ∨
  (c.op = 0x26 ∧ 2 ^ 16 ≤ c.val) ∨
  (c.op = 0x32 ∧ 2 ^ 11 ≤ c.val) ∨
  (c.op ∈ [0x43, 0x45, 0x47, 0x49, 0x4A] ∧ 2 ≤ c.val) ∨
  (c.op ∈ [0x27, 0x46, 0x48] ∧ 2 ^ P.lenW ≤ c.val) ∨
  (c.op ∈ [0x41, 0x42] ∧ c.present = true ∧ 2 ^ P.lenW ≤ c.val)

/-- Nothing of the framer differs: buffer, counter, latch, configuration and ghost counters (R25, R24). -/
structure SameFramer (s t : State) : Prop where
  buf : t.buf = s.buf
  skipped : t.skipped = s.skipped
  endLatch : t.endLatch = s.endLatch
  cfg : t.cfg = s.cfg
  gIn : t.gIn = s.gIn
  gHead : t.gHead = s.gHead

/-- Nothing outside the framer differs but the response: the parameters and the commands still to come. -/
structure SameOutside (s t : State) : Prop where
  par : t.par = s.par
  cmds : t.cmds = s.cmds

/-- The operation completes: `exec` answers a next state, which shows a response, and `Q` holds of the two
(R16, R268). -/
def Completes (i : Instr) (s : State) (Q : State → Response → Prop) : Prop :=
  ∃ t r, exec i s = .next t ∧ t.resp = some r ∧ Q t r

/-- The operation answers `OK` with a header value and changes nothing of the framer. -/
def AnswersHeader (i : Instr) (s : State) (h : Header) : Prop :=
  Completes i s fun t r =>
    r.rc = responseCode .ok ∧ r.hdr = packHeader h ∧ SameFramer s t ∧ SameOutside s t

/-- The operation answers `OK` with a value and changes nothing of the framer. -/
def AnswersValue (i : Instr) (s : State) (n : Nat) : Prop :=
  Completes i s fun t r => r.rc = responseCode .ok ∧ r.val = n ∧ SameFramer s t ∧ SameOutside s t

/-- The operation answers `OK` with a byte sequence and changes nothing of the framer. -/
def AnswersData (i : Instr) (s : State) (d : List Byte) : Prop :=
  Completes i s fun t r => r.rc = responseCode .ok ∧ r.data = d ∧ SameFramer s t ∧ SameOutside s t

/-- The operation answers with the code `c` alone and changes nothing of the framer. -/
def AnswersOnly (i : Instr) (s : State) (c : ResponseCode) : Prop :=
  Completes i s fun t r => r.rc = responseCode c ∧ SameFramer s t ∧ SameOutside s t

/-- The operation answers `OK` and replaces the configuration by `c`, nothing else of the framer (R225). -/
def WritesConfig (i : Instr) (s : State) (c : ParserConfig) : Prop :=
  Completes i s fun t r =>
    r.rc = responseCode .ok ∧ t.cfg = c ∧ t.buf = s.buf ∧ t.skipped = s.skipped ∧ t.endLatch = s.endLatch ∧
      t.gIn = s.gIn ∧ t.gHead = s.gHead ∧ SameOutside s t

/-- The response codes a row of the operation table can give (R104, the column `rc` of opcode_table.json). -/
def allowedCodes : Op → List ResponseCode
  | .decodeSlice => [.ok, .none]
  | .setPacketLength => [.ok, .none]
  | .recvBytes => [.ok, .errFull]
  | .recvSlice => [.ok, .errFull]
  | .currentHeader => [.ok, .none]
  | .reject => [.ok, .errEmpty]
  | .pullPacket => [.ok, .none]
  | .next => [.ok, .none]
  | .cfgSyncBytes => [.ok, .errArg]
  | _ => [.ok]

/-- Operations issued one after another (R73). -/
def execAll : List Instr → State → Host.Outcome State Fault Refusal
  | [], s => .next s
  | i :: rest, s =>
    match exec i s with
    | .next t => execAll rest t
    | .fault e => .fault e
    | .refused e => .refused e

/-- The bytes a list of operations feeds, in order (R220, R221). -/
def fedBytes : List Instr → List Byte
  | [] => []
  | .recvBytes d :: rest => d ++ fedBytes rest
  | .recvSlice d :: rest => d ++ fedBytes rest
  | _ :: rest => fedBytes rest

end Sys2Proof.Machine
end

