-- ==== Sys2Proof/Certificates/Slice0/Obligations.lean ====
section
/-! DEFINITION. The statements for the provers, each from a numbered rule of spec/ or derived from several. -/

open Sys2Proof Sys2Proof.Machine

/-! ### The header codec -/

/-- R130: `DECODE` assembles each word from its two bytes under the byte order, and touches no framer state. -/
def Obligations.DecodeAssemblesWords : Prop :=
  ∀ (b : Region) (s : State),
    AnswersHeader (.decode b .be) s
      ⟨BitVec.ofNat 16 (b.b0.toNat * 256 + b.b1.toNat), BitVec.ofNat 16 (b.b2.toNat * 256 + b.b3.toNat),
        BitVec.ofNat 16 (b.b4.toNat * 256 + b.b5.toNat)⟩ ∧
    AnswersHeader (.decode b .le) s
      ⟨BitVec.ofNat 16 (b.b1.toNat * 256 + b.b0.toNat), BitVec.ofNat 16 (b.b3.toNat * 256 + b.b2.toNat),
        BitVec.ofNat 16 (b.b5.toNat * 256 + b.b4.toNat)⟩

/-- R131: fewer than six bytes give `none`; otherwise the result is that of `DECODE` on the first six, whatever follows
them. -/
def Obligations.DecodeSliceUsesTheFirstSixBytes : Prop :=
  ∀ (order : ByteOrder) (s : State),
    (∀ d : List Byte, d.length < 6 → AnswersOnly (.decodeSlice d order) s .none) ∧
    ∀ (b : Region) (rest : List Byte),
      exec (.decodeSlice ([b.b0, b.b1, b.b2, b.b3, b.b4, b.b5] ++ rest) order) s = exec (.decode b order) s

/-- R132: `ENCODE` splits each word into two bytes, the more significant first under big-endian and second under
little-endian. The contract is the spec's decision D27. -/
def Obligations.EncodeSplitsWords : Prop :=
  ∀ (h : Header) (s : State),
    AnswersData (.encode h .be) s
      [BitVec.ofNat 8 (h.w0.toNat / 256), BitVec.ofNat 8 h.w0.toNat, BitVec.ofNat 8 (h.w1.toNat / 256),
        BitVec.ofNat 8 h.w1.toNat, BitVec.ofNat 8 (h.w2.toNat / 256), BitVec.ofNat 8 h.w2.toNat] ∧
    AnswersData (.encode h .le) s
      [BitVec.ofNat 8 h.w0.toNat, BitVec.ofNat 8 (h.w0.toNat / 256), BitVec.ofNat 8 h.w1.toNat,
        BitVec.ofNat 8 (h.w1.toNat / 256), BitVec.ofNat 8 h.w2.toNat, BitVec.ofNat 8 (h.w2.toNat / 256)]

/-- R134: encoding and decoding under one order undo each other, from either side; little-endian is big-endian on the
byte-swapped region. The spec marks R134 as derived from R130 and R132. -/
def Obligations.EncodeAndDecodeAreInverse : Prop :=
  (∀ (h : Header) (order : ByteOrder), decodeHeader (encodeHeader h order) order = h) ∧
  (∀ (b : Region) (order : ByteOrder), encodeHeader (decodeHeader b order) order = b) ∧
  (∀ b : Region, decodeHeader b .le = decodeHeader ⟨b.b1, b.b0, b.b3, b.b2, b.b5, b.b4⟩ .be) ∧
  ∀ (h : Header) (order : ByteOrder) (s : State),
    Completes (.encode h order) s fun t r => AnswersHeader (.decodeSlice r.data order) t h

/-- R141 to R147: each accessor returns its field of one word, and touches no framer state. -/
def Obligations.AccessorsReturnTheFields : Prop :=
  ∀ (h : Header) (s : State),
    AnswersValue (.getVersion h) s (h.w0.toNat / 8192 % 8) ∧
    AnswersValue (.getPacketType h) s (h.w0.toNat / 4096 % 2) ∧
    AnswersValue (.getSecHdrFlag h) s (h.w0.toNat / 2048 % 2) ∧
    AnswersValue (.getApid h) s (h.w0.toNat % 2048) ∧
    AnswersValue (.getSeqType h) s (h.w1.toNat / 16384) ∧
    AnswersValue (.getSeqCount h) s (h.w1.toNat % 16384) ∧
    AnswersValue (.getLengthField h) s h.w2.toNat

/-- R149: the seven accessor results determine the header value. The spec marks R149 as derived from R94 and R141 to
R147. -/
def Obligations.AccessorsDetermineTheHeader : Prop :=
  (∀ h : Header,
    h.w0 = ((getVersion h).setWidth 16 <<< 13) ||| ((getPacketType h).setWidth 16 <<< 12) |||
      ((getSecHdrFlag h).setWidth 16 <<< 11) ||| (getApid h).setWidth 16 ∧
    h.w1 = ((getSeqType h).setWidth 16 <<< 14) ||| (getSeqCount h).setWidth 16 ∧
    h.w2 = getLengthField h) ∧
  ∀ h k : Header, h = k ↔ ∀ x : HeaderField, getField x h = getField x k

/-- R180, R181: `PACKET_LENGTH` is `W[2] + 7` and `DATA_LENGTH` is `W[2] + 1`, with no wrap at 16 bits. -/
def Obligations.LengthsAreNaturalSums : Prop :=
  ∀ (h : Header) (s : State),
    AnswersValue (.packetLength h) s (h.w2.toNat + 7) ∧ AnswersValue (.dataLength h) s (h.w2.toNat + 1)

/-- R161 to R167: each mutator replaces its field's bits of one word and keeps the others. -/
def Obligations.MutatorsReplaceOneField : Prop :=
  ∀ (h : Header) (s : State),
    (∀ v, AnswersHeader (.setVersion h v) s ⟨(h.w0 &&& 0x1FFF) ||| (v.setWidth 16 <<< 13), h.w1, h.w2⟩) ∧
    (∀ v, AnswersHeader (.setPacketType h v) s ⟨(h.w0 &&& 0xEFFF) ||| (v.setWidth 16 <<< 12), h.w1, h.w2⟩) ∧
    (∀ v, AnswersHeader (.setSecHdrFlag h v) s ⟨(h.w0 &&& 0xF7FF) ||| (v.setWidth 16 <<< 11), h.w1, h.w2⟩) ∧
    (∀ v, AnswersHeader (.setApid h v) s ⟨(h.w0 &&& 0xF800) ||| v.setWidth 16, h.w1, h.w2⟩) ∧
    (∀ v, AnswersHeader (.setSeqType h v) s ⟨h.w0, (h.w1 &&& 0x3FFF) ||| (v.setWidth 16 <<< 14), h.w2⟩) ∧
    (∀ v, AnswersHeader (.setSeqCount h v) s ⟨h.w0, (h.w1 &&& 0xC000) ||| v.setWidth 16, h.w2⟩) ∧
    ∀ v, AnswersHeader (.setLengthField h v) s ⟨h.w0, h.w1, v⟩

/-- R168: read after write, no other field disturbed, last write wins, writing back what is there changes nothing,
mutators of different fields commute. The spec marks R168 as derived from R96, R140 and R160. -/
def Obligations.MutatorLaws : Prop :=
  ∀ (x : HeaderField) (h : Header) (v u : BitVec (fieldWidth x)),
    getField x (setField x h v) = v ∧
    (∀ y, y ≠ x → getField y (setField x h v) = getField y h) ∧
    setField x (setField x h v) u = setField x h u ∧
    setField x h (getField x h) = h ∧
    ∀ (y : HeaderField) (w : BitVec (fieldWidth y)), y ≠ x →
      setField x (setField y h w) v = setField y (setField x h v) w

/-- R182: `SET_PACKET_LENGTH` answers `none` below 7 and above 65542, and otherwise writes `total - 7` into the length
field, the other words unchanged; on success `PACKET_LENGTH` of the result is `total`. The range above 65542 is the
spec's decision D16. -/
def Obligations.SetPacketLengthRange : Prop :=
  ∀ (h : Header) (total : Nat) (s : State),
    (total < 7 → AnswersOnly (.setPacketLength h total) s .none) ∧
    (65542 < total → AnswersOnly (.setPacketLength h total) s .none) ∧
    (7 ≤ total → total ≤ 65542 →
      AnswersHeader (.setPacketLength h total) s ⟨h.w0, h.w1, BitVec.ofNat 16 (total - 7)⟩ ∧
      AnswersValue (.packetLength ⟨h.w0, h.w1, BitVec.ofNat 16 (total - 7)⟩) s total)

/-- R133: a field written on six raw bytes reads back, and changes no byte outside the field's word. The spec marks
R133 as derived from R130, R132 and R160. -/
def Obligations.RawWriteTouchesOneWord : Prop :=
  ∀ (x : HeaderField) (b : Region) (order : ByteOrder) (v : BitVec (fieldWidth x)),
    readRaw x (writeRaw x b order v) order = v ∧
    decodeHeader (writeRaw x b order v) order = setField x (decodeHeader b order) v ∧
    (x ∈ [.version, .packetType, .secHdrFlag, .apid] →
      (writeRaw x b order v).b2 = b.b2 ∧ (writeRaw x b order v).b3 = b.b3 ∧
      (writeRaw x b order v).b4 = b.b4 ∧ (writeRaw x b order v).b5 = b.b5) ∧
    (x ∈ [.seqType, .seqCount] →
      (writeRaw x b order v).b0 = b.b0 ∧ (writeRaw x b order v).b1 = b.b1 ∧
      (writeRaw x b order v).b4 = b.b4 ∧ (writeRaw x b order v).b5 = b.b5) ∧
    (x = .lengthField →
      (writeRaw x b order v).b0 = b.b0 ∧ (writeRaw x b order v).b1 = b.b1 ∧
      (writeRaw x b order v).b2 = b.b2 ∧ (writeRaw x b order v).b3 = b.b3)

/-- R135: from any header value, the seven mutators give the header with exactly the given fields. The spec marks R135
as derived from R94, R160 and R168. -/
def Obligations.SevenMutatorsBuildTheHeader : Prop :=
  ∀ (h : Header) (ver : BitVec 3) (typ : BitVec 1) (sec : BitVec 1) (apid : Apid) (flag : BitVec 2)
    (count : BitVec 14) (len : BitVec 16),
    setLengthField (setSeqCount (setSeqType (setApid (setSecHdrFlag (setPacketType (setVersion h ver) typ) sec)
      apid) flag) count) len = headerOfFields ver typ sec apid flag count len ∧
    headerOfFields ver typ sec apid flag count len =
      ⟨(ver.setWidth 16 <<< 13) ||| (typ.setWidth 16 <<< 12) ||| (sec.setWidth 16 <<< 11) ||| apid.setWidth 16,
        (flag.setWidth 16 <<< 14) ||| count.setWidth 16, len⟩

/-- R97 to R99, R148, R169: the name of each value of the three enumerated fields and the bits of each name; any other
integer is `unknown`, which has no bits. Applied to a field of a header the naming functions never give `unknown`, and
the name's bits are the field's bits. The numbering and `unknown` are the spec's decisions D14 and D15 (R99 is from
general knowledge, log 14). -/
def Obligations.NamesAndBitsAgree : Prop :=
  ([0, 1].map packetTypeOf = [.telemetry, .command] ∧ [0, 1].map secHdrFlagOf = [.notPresent, .present] ∧
    [0, 1, 2, 3].map seqFlagOf = [.continuation, .firstSegment, .lastSegment, .unsegmented]) ∧
  (∀ n : Nat, (packetTypeOf n = .unknown ↔ 2 ≤ n) ∧ (secHdrFlagOf n = .unknown ↔ 2 ≤ n) ∧
    (seqFlagOf n = .unknown ↔ 4 ≤ n)) ∧
  ([PacketType.telemetry, .command, .unknown].map packetTypeBits = [some 0, some 1, none] ∧
    [SecHdrFlag.notPresent, .present, .unknown].map secHdrFlagBits = [some 0, some 1, none] ∧
    [SeqFlag.continuation, .firstSegment, .lastSegment, .unsegmented, .unknown].map seqFlagBits =
      [some 0, some 1, some 2, some 3, none]) ∧
  ∀ h : Header, packetTypeBits (packetTypeOf (getPacketType h).toNat) = some (getPacketType h) ∧
    secHdrFlagBits (secHdrFlagOf (getSecHdrFlag h).toNat) = some (getSecHdrFlag h) ∧
    seqFlagBits (seqFlagOf (getSeqType h).toNat) = some (getSeqType h)

/-- R20: a codec operation is a function of its operands: one result for every state, and no framer state touched. -/
def Obligations.CodecIgnoresTheFramer : Prop :=
  ∀ i : Instr, instrOp i ∈ codecOps ++ accessorOps ++ mutatorOps →
    ∃ result : Result, ∀ s : State, exec i s = .next (respond result s) ∧ SameFramer s (respond result s)

/-! ### The framer's input and inspection -/

/-- R220, R221: within the capacity, `RECV_BYTES` and `RECV_SLICE` append at the tail and clear the latch; the counter
and the configuration are unchanged. That an empty append clears the latch too is the spec's decision D12. -/
def Obligations.ReceiveAppendsAndClearsTheLatch : Prop :=
  ∀ (d : List Byte) (s : State), (∀ cap, s.par.bufCap = some cap → s.buf.length + d.length ≤ cap) →
    ∀ i ∈ [Instr.recvBytes d, Instr.recvSlice d],
      Completes i s fun t r =>
        r.rc = responseCode .ok ∧ t.buf = s.buf ++ d ∧ t.endLatch = false ∧ t.skipped = s.skipped ∧
          t.cfg = s.cfg ∧ t.gIn = s.gIn + d.length ∧ t.gHead = s.gHead ∧ SameOutside s t ∧
          ∀ k, k < s.buf.length → readByte t.buf k = readByte s.buf k

/-- R71: an append that would exceed a finite capacity is refused as a whole with `ERR_FULL`. The answer is the spec's
decision D7; that the model runs it is log 5. -/
def Obligations.ReceiveBeyondCapacityChangesNothing : Prop :=
  ∀ (d : List Byte) (s : State) (cap : Nat), s.par.bufCap = some cap → cap < s.buf.length + d.length →
    AnswersOnly (.recvBytes d) s .errFull ∧ AnswersOnly (.recvSlice d) s .errFull

/-- R220: how the bytes are cut into pieces does not matter, only their concatenation. The buffer must hold both
pieces (the spec's decision D7). -/
def Obligations.OnlyTheConcatenationMatters : Prop :=
  ∀ (a b : List Byte) (s : State), (∀ cap, s.par.bufCap = some cap → s.buf.length + (a.length + b.length) ≤ cap) →
    Completes (.recvBytes a) s fun t1 _ => Completes (.recvBytes b) t1 fun t2 _ =>
      Completes (.recvBytes (a ++ b)) s fun u _ => SameFramer t2 u

/-- R222: `ALLOW_APID` adds one APID to the allow-list, creating it if absent: the members afterwards are the APID and
the members before. Nothing else changes. The set of 11-bit APIDs is the spec's decision D18. -/
def Obligations.AllowApidAddsOneMember : Prop :=
  ∀ (a : Apid) (s : State),
    Completes (.allowApid a) s fun t r =>
      r.rc = responseCode .ok ∧
      (∃ A' : ApidSet, t.cfg = { s.cfg with allowedApids := some A' } ∧
        ∀ b : Apid, A'.getLsbD b.toNat = true ↔
          b = a ∨ ∃ A : ApidSet, s.cfg.allowedApids = some A ∧ A.getLsbD b.toNat = true) ∧
      t.buf = s.buf ∧ t.skipped = s.skipped ∧ t.endLatch = s.endLatch ∧ t.gIn = s.gIn ∧ t.gHead = s.gHead ∧
      SameOutside s t

/-- R223: `GET_SKIPPED` completes with `OK` from every state and changes nothing, and it answers the counter wherever
that fits `CNT_W` bits (R27); beyond that the value is free (U11, log 10). The operation is the spec's decision D21.
-/
def Obligations.GetSkippedAnswersTheCounter : Prop :=
  ∀ s : State, AnswersOnly .getSkipped s .ok ∧
    ((∀ w, s.par.cntW = some w → s.skipped < 2 ^ w) → AnswersValue .getSkipped s s.skipped)

/-- R191, R190: `CURRENT_HEADER` decodes the six bytes at offset `s + p` in the framer's byte order, or answers `none`
while they are not all buffered; it changes nothing. That the threshold is `s + p + 6` and that the sync marker is not
compared is the spec's decision D23. -/
def Obligations.CurrentHeaderReadsAtItsOffset : Prop :=
  ∀ s : State,
    (s.buf.length < s.cfg.syncBytes.length + s.cfg.numHeaderBytes + 6 → AnswersOnly .currentHeader s .none) ∧
    ∀ (before : List Byte) (b : Region) (rest : List Byte),
      s.buf = before ++ ([b.b0, b.b1, b.b2, b.b3, b.b4, b.b5] ++ rest) →
      before.length = s.cfg.syncBytes.length + s.cfg.numHeaderBytes →
      AnswersHeader .currentHeader s (decodeHeader b (if s.cfg.littleEndianHeader then .le else .be))

/-- R206: `CURRENT_STATUS` answers the status and changes nothing, and the status is that of the first of the ten checks
that fires, for every validation predicate `V` and every reading of `T1_EXTRA`. -/
def Obligations.StatusIsTheFirstCheckThatFires : Prop :=
  (∀ s : State, Completes .currentStatus s fun t r =>
    r.rc = responseCode .ok ∧ r.status = statusCode (statusWith Config.validate s.par s.cfg s.buf) ∧
      SameFramer s t ∧ SameOutside s t) ∧
  ∀ (V : List Byte → Bool) (P : Params) (c : ParserConfig) (buf : List Byte),
    let sp := c.syncBytes.length + c.numHeaderBytes
    let t1 := sp + 6 + c.numFooterBytes +
      (match P.t1Extra with
        | .extra n => n
        | .syncPrefixAgain => sp)
    (buf.length < t1 → statusWith V P c buf = .notEnoughBytesForHeader) ∧
    ∀ (before : List Byte) (b : Region) (rest : List Byte),
      t1 ≤ buf.length → buf = before ++ ([b.b0, b.b1, b.b2, b.b3, b.b4, b.b5] ++ rest) → before.length = sp →
      let h := decodeHeader b (if c.littleEndianHeader then .le else .be)
      let plen := h.w2.toNat + 7
      let t5 := sp + plen + c.numFooterBytes
      let check2 := 0 < c.syncBytes.length ∧ buf.take c.syncBytes.length ≠ c.syncBytes
      let check3 := ∃ m, c.maxPacketLength = some m ∧ m < plen
      let check4 := ∃ m, c.minPacketLength = some m ∧ plen < m
      let check5 := buf.length < t5
      let check6 := h.w0.toNat / 8192 ≠ 0
      let check7 := c.secondaryHeaderRequired = true ∧ h.w0.toNat / 2048 % 2 = 0
      let check8 := c.validationCallback = true ∧ V (buf.take t5) = false
      let check9 := ∃ A : ApidSet, c.allowedApids = some A ∧ A.getLsbD (h.w0.toNat % 2048) = false
      (check2 → statusWith V P c buf = .syncNotFound) ∧
      (¬check2 → check3 → statusWith V P c buf = .exceedsMaxPacketLength) ∧
      (¬check2 → ¬check3 → check4 → statusWith V P c buf = .belowMinPacketLength) ∧
      (¬check2 → ¬check3 → ¬check4 → check5 → statusWith V P c buf = .notEnoughBytesForPacket) ∧
      (¬check2 → ¬check3 → ¬check4 → ¬check5 → check6 → statusWith V P c buf = .invalidVersion) ∧
      (¬check2 → ¬check3 → ¬check4 → ¬check5 → ¬check6 → check7 →
        statusWith V P c buf = .secondaryHeaderInvalid) ∧
      (¬check2 → ¬check3 → ¬check4 → ¬check5 → ¬check6 → ¬check7 → check8 →
        statusWith V P c buf = .validationFailed) ∧
      (¬check2 → ¬check3 → ¬check4 → ¬check5 → ¬check6 → ¬check7 → ¬check8 → check9 →
        statusWith V P c buf = .apidNotAllowed) ∧
      (¬check2 → ¬check3 → ¬check4 → ¬check5 → ¬check6 → ¬check7 → ¬check8 → ¬check9 →
        statusWith V P c buf = .validPacket)

/-- R103, R104: the numeric codes of the ten statuses and of the responses. The numbers are the spec's decisions D1
and D3. -/
def Obligations.StatusAndResponseCodes : Prop :=
  [Status.notEnoughBytesForHeader, .syncNotFound, .exceedsMaxPacketLength, .belowMinPacketLength,
    .notEnoughBytesForPacket, .invalidVersion, .secondaryHeaderInvalid, .validationFailed, .apidNotAllowed,
    .validPacket].map statusCode = [1, 2, 3, 4, 5, 6, 7, 8, 9, 10] ∧
  [ResponseCode.ok, .none, .errEmpty, .errFull, .errIllegalOp, .errArg].map responseCode = [0, 1, 2, 3, 4, 5]

/-- R207: exactly one of the three classes holds of every status. -/
def Obligations.StatusClasses : Prop :=
  ∀ st : Status,
    (insufficient st = true ↔ st = .notEnoughBytesForHeader ∨ st = .notEnoughBytesForPacket) ∧
    (valid st = true ↔ st = .validPacket) ∧
    (malformed st = true ↔ st ∈ [.syncNotFound, .exceedsMaxPacketLength, .belowMinPacketLength, .invalidVersion,
      .secondaryHeaderInvalid, .validationFailed, .apidNotAllowed])

/-- R208: appending bytes leaves a malformed or valid status as it is, and takes `NotEnoughBytesForPacket` only to
itself or to the statuses 6 to 10. The spec marks R208 as derived from R206. -/
def Obligations.StatusIsStableUnderAppending : Prop :=
  ∀ (V : List Byte → Bool) (P : Params) (c : ParserConfig) (buf d : List Byte),
    (insufficient (statusWith V P c buf) = false → statusWith V P c (buf ++ d) = statusWith V P c buf) ∧
    (statusWith V P c buf = .notEnoughBytesForPacket →
      5 ≤ (statusCode (statusWith V P c (buf ++ d))).toNat)

/-- R209: (a) without sync marker, bounds, prefix and footer six bytes are never a packet; (b) with a matching or no
sync marker a length above the maximum, or below the minimum and not above the maximum, is reported as soon as the
header is readable, however few bytes of the packet are buffered; (c) the statuses 6 to 10 need the whole frame
buffered; (d) check 8 hides check 9, check 3 hides check 4, and a sync mismatch hides everything about the header. The
spec marks R209 as derived from R206. -/
def Obligations.ConsequencesOfTheCheckOrder : Prop :=
  ∀ (V : List Byte → Bool) (P : Params) (c : ParserConfig) (buf : List Byte),
    (c.syncBytes = [] → c.maxPacketLength = none → c.minPacketLength = none → c.numHeaderBytes = 0 →
      c.numFooterBytes = 0 → P.t1Extra = .extra 0 → buf.length = 6 →
      statusWith V P c buf = .notEnoughBytesForPacket) ∧
    (∀ h : Header, buf.take c.syncBytes.length = c.syncBytes → threshold1 P c ≤ buf.length →
      headerAt c buf = some h →
      (∀ m, c.maxPacketLength = some m → m < packetLength h → statusWith V P c buf = .exceedsMaxPacketLength) ∧
      (∀ m, c.minPacketLength = some m → packetLength h < m →
        (∀ k, c.maxPacketLength = some k → packetLength h ≤ k) → statusWith V P c buf = .belowMinPacketLength)) ∧
    (6 ≤ (statusCode (statusWith V P c buf)).toNat →
      ∃ h, headerAt c buf = some h ∧ frameLength c h ≤ buf.length) ∧
    (statusWith V P c buf = .apidNotAllowed →
      c.validationCallback = true → ∃ h, headerAt c buf = some h ∧ V (buf.take (frameLength c h)) = true) ∧
    (statusWith V P c buf = .belowMinPacketLength →
      ∀ m, c.maxPacketLength = some m → ∃ h, headerAt c buf = some h ∧ packetLength h ≤ m) ∧
    (threshold1 P c ≤ buf.length → buf.take c.syncBytes.length ≠ c.syncBytes →
      statusWith V P c buf = .syncNotFound)

/-! ### Reject, extraction, iteration -/

/-- R261: on a buffer that is not empty `REJECT` drops one byte at the head and counts it, whatever the status; the latch
and the configuration are unchanged. On an empty buffer it answers `ERR_EMPTY` and changes nothing (the spec's decision
D9, log 5). -/
def Obligations.RejectDropsOneByte : Prop :=
  ∀ s : State,
    (s.buf = [] → AnswersOnly .reject s .errEmpty) ∧
    ∀ (b : Byte) (rest : List Byte), s.buf = b :: rest →
      Completes .reject s fun t r =>
        r.rc = responseCode .ok ∧ t.buf = rest ∧ t.skipped = s.skipped + 1 ∧ t.gHead = s.gHead + 1 ∧
          t.endLatch = s.endLatch ∧ t.cfg = s.cfg ∧ t.gIn = s.gIn ∧ SameOutside s t

/-- R302: at a malformed head `PULL_PACKET`, and `NEXT` while its latch is clear, do what they do with the first byte
lost and counted; `CURRENT_STATUS` only reports the status. -/
def Obligations.PullAdvancesOverAMalformedHead : Prop :=
  ∀ s : State, malformed (status s) = true →
    exec .pullPacket s = exec .pullPacket
      { s with buf := s.buf.drop 1, skipped := s.skipped + 1, gHead := s.gHead + 1 } ∧
    (s.endLatch = false → exec .next s = exec .next
      { s with buf := s.buf.drop 1, skipped := s.skipped + 1, gHead := s.gHead + 1 }) ∧
    Completes .currentStatus s fun t r =>
      r.rc = responseCode .ok ∧ r.status = statusCode (status s) ∧ SameFramer s t ∧ SameOutside s t

/-- R263: at a valid head `PULL_PACKET` removes exactly the `T5` bytes of the frame and returns `F[a .. a + n)`;
`SKIPPED` and the latch are unchanged. That `SKIPPED` and the latch are unchanged is the spec's decisions D24 and D10.
-/
def Obligations.PullExtractsTheFrame : Prop :=
  ∀ (s : State) (h : Header), status s = .validPacket → headerAt s.cfg s.buf = some h →
    let c := s.cfg
    let plen := h.w2.toNat + 7
    let t5 := c.syncBytes.length + c.numHeaderBytes + plen + c.numFooterBytes
    let a := (if c.keepSync then 0 else c.syncBytes.length) + (if c.keepHeader then 0 else c.numHeaderBytes)
    let n := plen + (if c.keepSync then c.syncBytes.length else 0) + (if c.keepHeader then c.numHeaderBytes else 0) +
      (if c.keepFooter then c.numFooterBytes else 0)
    t5 ≤ s.buf.length ∧
    Completes .pullPacket s fun t r =>
      r.rc = responseCode .ok ∧ r.data = ((s.buf.take t5).drop a).take n ∧ r.data.length = n ∧
        t.buf = s.buf.drop t5 ∧ t.gHead = s.gHead + t5 ∧ t.skipped = s.skipped ∧ t.endLatch = s.endLatch ∧
        t.cfg = s.cfg ∧ t.gIn = s.gIn ∧ SameOutside s t

/-- R264: what is returned for each combination of the keep flags. The literal order of the steps is the spec's
decision D22; the spec marks R264 as derived from R263. -/
def Obligations.KeepFlagsSelectTheSpan : Prop :=
  ∀ (s : State) (h : Header) (sync pre pkt foot rest : List Byte),
    status s = .validPacket → headerAt s.cfg s.buf = some h → s.buf = sync ++ (pre ++ (pkt ++ (foot ++ rest))) →
    sync.length = s.cfg.syncBytes.length → pre.length = s.cfg.numHeaderBytes → pkt.length = packetLength h →
    foot.length = s.cfg.numFooterBytes →
    Completes .pullPacket s fun t r =>
      r.rc = responseCode .ok ∧ t.buf = rest ∧
      r.data =
        (if s.cfg.keepSync then
          (if s.cfg.keepHeader then sync ++ pre else (sync ++ pre).drop pre.length)
        else (if s.cfg.keepHeader then pre else [])) ++ pkt ++ (if s.cfg.keepFooter then foot else [])

/-- R262, R263: `PULL_PACKET` from every state. It stops at the first position whose status is not malformed, with
every position before it dropped and counted. Where the status there asks for more input it answers `none` and drops
nothing more; where it is `ValidPacket` it removes the `T5` bytes of the frame and returns `F[a .. a + n)` of it. The
latch and the configuration are unchanged. That the latch is not touched and that the frame is not counted are the
spec's decisions D10 and D24, the literal order of the extraction's steps D22. -/
def Obligations.PullStopsAtTheFirstPositionNotMalformed : Prop :=
  ∀ s : State,
    let c := s.cfg
    let statusAt := fun k => statusWith Config.validate s.par c (s.buf.drop k)
    Completes .pullPacket s fun t r =>
      ∃ k, k ≤ s.buf.length ∧ (∀ j, j < k → malformed (statusAt j) = true) ∧ malformed (statusAt k) = false ∧
        t.skipped = s.skipped + k ∧ t.endLatch = s.endLatch ∧ t.cfg = c ∧ t.gIn = s.gIn ∧ SameOutside s t ∧
        (insufficient (statusAt k) = true →
          r.rc = responseCode .none ∧ t.buf = s.buf.drop k ∧ t.gHead = s.gHead + k) ∧
        (statusAt k = .validPacket → r.rc = responseCode .ok ∧ ∃ h, headerAt c (s.buf.drop k) = some h ∧
          let plen := h.w2.toNat + 7
          let t5 := c.syncBytes.length + c.numHeaderBytes + plen + c.numFooterBytes
          let a := (if c.keepSync then 0 else c.syncBytes.length) + (if c.keepHeader then 0 else c.numHeaderBytes)
          let n := plen + (if c.keepSync then c.syncBytes.length else 0) +
            (if c.keepHeader then c.numHeaderBytes else 0) + (if c.keepFooter then c.numFooterBytes else 0)
          k + t5 ≤ s.buf.length ∧ r.data = (s.buf.drop (k + a)).take n ∧ r.data.length = n ∧
            t.buf = s.buf.drop (k + t5) ∧ t.gHead = s.gHead + (k + t5))

/-- R265: one `PULL_PACKET` performs at most `max(0, len(BUF) - T1 + 1)` advances, and after one that answered `none`
a second changes nothing and answers `none`. The spec marks R265 as derived from R206, R260 and R262. -/
def Obligations.ResynchronisationIsBounded : Prop :=
  ∀ s : State, Completes .pullPacket s fun t r =>
    t.skipped ≤ s.skipped + (s.buf.length + 1 - threshold1 s.par s.cfg) ∧
    (r.rc = responseCode .none → insufficient (status t) = true ∧ AnswersOnly .pullPacket t .none)

/-- R348: with `min_packet_length` above `max_packet_length` no head is ever valid, and `PULL_PACKET` discards down to
fewer than `T1` bytes. The spec marks R348 as derived from R198 and R199. -/
def Obligations.ContradictoryBoundsRejectEverything : Prop :=
  ∀ (s : State) (lo hi : Nat), s.cfg.minPacketLength = some lo → s.cfg.maxPacketLength = some hi → hi < lo →
    status s ≠ .validPacket ∧
    Completes .pullPacket s fun t r =>
      r.rc = responseCode .none ∧ t.buf.length < threshold1 s.par s.cfg

/-- R74: a span returned by `PULL_PACKET` or `NEXT` is a contiguous run of the buffered stream, and everything up to
its end has left the buffer, from the head. The spec marks R74 as derived from R44 and R263. -/
def Obligations.PacketsLeaveInStreamOrder : Prop :=
  ∀ (i : Instr) (s : State), i ∈ [Instr.pullPacket, Instr.next] →
    Completes i s fun t r =>
      s.gHead ≤ t.gHead ∧ t.buf = s.buf.drop (t.gHead - s.gHead) ∧
      (r.rc = responseCode .ok → ∃ a b, s.gHead ≤ a ∧ a + 7 ≤ b ∧ b ≤ t.gHead ∧ t.gHead ≤ s.gHead + s.buf.length ∧
        r.data = (s.buf.drop (a - s.gHead)).take (b - a))

/-- R266: with the latch set `NEXT` answers `none` and changes nothing. The latch's rule is the spec's decision D11.
-/
def Obligations.NextWithTheLatchSet : Prop :=
  ∀ s : State, s.endLatch = true → AnswersOnly .next s .none

/-- R266: with the latch clear, where `PULL_PACKET` returns a packet `NEXT` does exactly the same; the latch stays
clear. The latch's rule is the spec's decision D11. -/
def Obligations.NextReturnsWhatPullReturns : Prop :=
  ∀ (s t : State) (r : Response), s.endLatch = false → exec .pullPacket s = .next t → t.resp = some r →
    r.rc = responseCode .ok → exec .next s = .next t ∧ t.endLatch = false

/-- R266: with the latch clear, where `PULL_PACKET` returns `none` with status `NotEnoughBytesForHeader`, `NEXT`
answers `none` and sets the latch; no further byte is dropped. The latch's rule is the spec's decision D11. -/
def Obligations.NextOutOfData : Prop :=
  ∀ (s t : State) (r : Response), s.endLatch = false → exec .pullPacket s = .next t → t.resp = some r →
    r.rc = responseCode .none → status t = .notEnoughBytesForHeader →
    Completes .next s fun u q =>
      q.rc = responseCode .none ∧ u.endLatch = true ∧ u.buf = t.buf ∧ u.skipped = t.skipped ∧ u.cfg = t.cfg ∧
        u.gIn = t.gIn ∧ u.gHead = t.gHead ∧ SameOutside s u

/-- R266: with the latch clear, where `PULL_PACKET` returns `none` with another status, that status is
`NotEnoughBytesForPacket` and `NEXT` advances exactly one byte and pulls once more; it sets the latch exactly when
that gives `none`. The latch's rule is the spec's decision D11. -/
def Obligations.NextRetriesOnce : Prop :=
  ∀ (s t : State) (r : Response), s.endLatch = false → exec .pullPacket s = .next t → t.resp = some r →
    r.rc = responseCode .none → status t ≠ .notEnoughBytesForHeader →
    status t = .notEnoughBytesForPacket ∧
    Completes .pullPacket { t with buf := t.buf.drop 1, skipped := t.skipped + 1, gHead := t.gHead + 1 } fun v p =>
      Completes .next s fun u q =>
        q.rc = p.rc ∧ (q.rc = responseCode .ok → q.data = p.data) ∧ u.buf = v.buf ∧ u.skipped = v.skipped ∧
          u.cfg = v.cfg ∧ u.gIn = v.gIn ∧ u.gHead = v.gHead ∧ SameOutside s u ∧
          (u.endLatch = true ↔ q.rc = responseCode .none)

/-- R267: a `NEXT` that returns a packet shortens the buffer by at least 7 bytes, one that returns `none` leaves the
latch set. The spec marks R267 as derived from R262, R265 and R266. -/
def Obligations.NextMakesProgress : Prop :=
  ∀ s : State, Completes .next s fun t r =>
    (r.rc = responseCode .ok → t.buf.length + 7 ≤ s.buf.length ∧ t.endLatch = false) ∧
    (r.rc = responseCode .none → t.endLatch = true) ∧
    (r.rc = responseCode .ok ∨ r.rc = responseCode .none)

/-- R267: calling `NEXT` until it returns `none` is finite: as many `NEXT` commands as there are 7-byte packets in the
buffer, and one more, leave the latch set. The spec marks R267 as derived; the commands waiting in the state are log
3. -/
def Obligations.DrainingWithNextEnds : Prop :=
  ∀ (n : Nat) (s : State), s.cmds = List.replicate n (encode .next) → s.buf.length < 7 * n →
    ∃ t, Host.Core.run core n s = .next t ∧ t.endLatch = true ∧ t.cmds = []

/-! ### The configuration and reset -/

/-- R225 to R237 (but R230): each configuration write replaces its own field and nothing else. The writes are the
spec's decisions D17 to D20. -/
def Obligations.ConfigurationWritesOneField : Prop :=
  ∀ s : State,
    (∀ x, WritesConfig (.cfgAllowedApids x) s { s.cfg with allowedApids := x }) ∧
    (∀ x, WritesConfig (.cfgMaxPacketLength x) s { s.cfg with maxPacketLength := x }) ∧
    (∀ x, WritesConfig (.cfgMinPacketLength x) s { s.cfg with minPacketLength := x }) ∧
    (∀ x, WritesConfig (.cfgSecondaryHeaderRequired x) s { s.cfg with secondaryHeaderRequired := x }) ∧
    (∀ x, WritesConfig (.cfgKeepSync x) s { s.cfg with keepSync := x }) ∧
    (∀ x, WritesConfig (.cfgNumHeaderBytes x) s { s.cfg with numHeaderBytes := x }) ∧
    (∀ x, WritesConfig (.cfgKeepHeader x) s { s.cfg with keepHeader := x }) ∧
    (∀ x, WritesConfig (.cfgNumFooterBytes x) s { s.cfg with numFooterBytes := x }) ∧
    (∀ x, WritesConfig (.cfgKeepFooter x) s { s.cfg with keepFooter := x }) ∧
    (∀ x, WritesConfig (.cfgLittleEndianHeader x) s { s.cfg with littleEndianHeader := x }) ∧
    ∀ x, WritesConfig (.cfgValidationCallback x) s { s.cfg with validationCallback := x }

/-- R230: `CFG_SYNC_BYTES` writes the marker, or answers `ERR_ARG` with no change where it is longer than a finite
`SYNC_MAX`. The limit is the spec's decision D19; that the model runs the refused write is log 5. -/
def Obligations.SyncMarkerWithinItsLimit : Prop :=
  ∀ (y : List Byte) (s : State),
    ((∀ m, s.par.syncMax = some m → y.length ≤ m) → WritesConfig (.cfgSyncBytes y) s { s.cfg with syncBytes := y }) ∧
    ∀ m, s.par.syncMax = some m → m < y.length → AnswersOnly (.cfgSyncBytes y) s .errArg

/-- R238: `CFG_READ` answers the whole configuration and changes nothing. The operation is the spec's decision D21;
the record's own response field is log 15. -/
def Obligations.ConfigurationReadsBack : Prop :=
  ∀ s : State, Completes .cfgRead s fun t r =>
    r.rc = responseCode .ok ∧ r.cfg = s.cfg ∧ SameFramer s t ∧ SameOutside s t

/-- R330: `RESET` gives every piece of framer state its reset value; the build-time parameters are not touched (R331).
The operation and its values are the spec's decisions D5, D6 and D30. -/
def Obligations.ResetRestoresTheResetState : Prop :=
  ∀ s : State, Completes .reset s fun t r =>
    r.rc = responseCode .ok ∧ t.buf = [] ∧ t.skipped = 0 ∧ t.endLatch = false ∧ t.gIn = 0 ∧ t.gHead = 0 ∧
      t.cfg = ⟨none, none, none, false, [], false, 0, false, 0, false, false, false⟩ ∧ SameOutside s t

/-- R45: the state after power-on reset. The values are the spec's decisions D5 and D6. -/
def Obligations.PowerOnState : Prop :=
  State.reset.buf = [] ∧ State.reset.skipped = 0 ∧ State.reset.endLatch = false ∧
    State.reset.cfg = ⟨none, none, none, false, [], false, 0, false, 0, false, false, false⟩ ∧
    State.reset.gIn = 0 ∧ State.reset.gHead = 0

/-- R113, four of its rows: `RECV_SLICE` is `RECV_BYTES`; `ALLOW_APID` is `CFG_ALLOWED_APIDS` with the APID added to
the current set, or to the empty set where there is none; `SET_PACKET_LENGTH` with a total from 7 to 65542 is
`SET_LENGTH_FIELD` of the total less 7. The expansions of `RECV_SLICE`, of the allow-list and of the range are the
spec's decisions D13, D18 and D16. -/
def Obligations.PseudoOperationsExpand : Prop :=
  ∀ s : State,
    (∀ d, exec (.recvSlice d) s = exec (.recvBytes d) s) ∧
    (∀ (a : Apid) (A : ApidSet), s.cfg.allowedApids = some A →
      exec (.allowApid a) s = exec (.cfgAllowedApids (some (A ||| BitVec.twoPow 2048 a.toNat))) s) ∧
    (∀ a : Apid, s.cfg.allowedApids = none →
      exec (.allowApid a) s = exec (.cfgAllowedApids (some (BitVec.twoPow 2048 a.toNat))) s) ∧
    (∀ (h : Header) (t : Nat), 7 ≤ t → t ≤ 65542 →
      exec (.setPacketLength h t) s = exec (.setLengthField h (BitVec.ofNat 16 (t - 7))) s)

/-! ### Rules about the whole machine -/

/-- R28: only `NEXT`, `RECV_*` and `RESET` change the latch, and only `NEXT` sets it. Which operations touch it is the
spec's decision D10. -/
def Obligations.OnlyNextReceiveAndResetTouchTheLatch : Prop :=
  ∀ (i : Instr) (s t : State), exec i s = .next t →
    (instrOp i ∉ [.next, .recvBytes, .recvSlice, .reset] → t.endLatch = s.endLatch) ∧
    (s.endLatch = false → t.endLatch = true → i = .next)

/-- R27: only `REJECT`, `PULL_PACKET`, `NEXT` and `RESET` change the counter, and only `RESET` lowers it. What is
counted is the spec's decision D24. -/
def Obligations.SkippedNeverDecreases : Prop :=
  ∀ (i : Instr) (s t : State), exec i s = .next t →
    (instrOp i ∉ [.reject, .pullPacket, .next, .reset] → t.skipped = s.skipped) ∧
    (i ≠ .reset → s.skipped ≤ t.skipped)

/-- R42: only a configuration write, `ALLOW_APID` and `RESET` change the configuration. When it may change is the
spec's decision D20. -/
def Obligations.OnlyConfigurationWritesChangeTheConfiguration : Prop :=
  ∀ (i : Instr) (s t : State), exec i s = .next t →
    instrOp i ∉ [.allowApid, .reset, .cfgAllowedApids, .cfgMaxPacketLength, .cfgMinPacketLength,
      .cfgSecondaryHeaderRequired, .cfgSyncBytes, .cfgKeepSync, .cfgNumHeaderBytes, .cfgKeepHeader,
      .cfgNumFooterBytes, .cfgKeepFooter, .cfgLittleEndianHeader, .cfgValidationCallback] →
    t.cfg = s.cfg

/-- R26, R61: only `RECV_*` append, at the tail; only `REJECT`, `PULL_PACKET` and `NEXT` remove, at the head; `RESET`
empties the buffer (R330, the spec's decision D30); every other operation leaves every byte of it. The spec marks the
table of R61 as derived. -/
def Obligations.BufferChangesOnlyAtItsEnds : Prop :=
  ∀ (i : Instr) (s t : State), exec i s = .next t →
    (instrOp i ∉ [.recvBytes, .recvSlice, .reject, .pullPacket, .next, .reset] →
      t.buf = s.buf ∧ (∀ k, readByte t.buf k = readByte s.buf k) ∧ t.gIn = s.gIn ∧ t.gHead = s.gHead) ∧
    (instrOp i ∈ [.recvBytes, .recvSlice] →
      ∃ d, t.buf = s.buf ++ d ∧ t.gIn = s.gIn + d.length ∧ t.gHead = s.gHead ∧
        ∀ k, k < s.buf.length → readByte t.buf k = readByte s.buf k) ∧
    (instrOp i ∈ [.reject, .pullPacket, .next] →
      s.gHead ≤ t.gHead ∧ t.gHead ≤ s.gHead + s.buf.length ∧ t.buf = s.buf.drop (t.gHead - s.gHead) ∧
        t.gIn = s.gIn) ∧
    (instrOp i = .reset → t.buf = [] ∧ t.gIn = 0 ∧ t.gHead = 0)

/-- R10, R331: no operation changes the build-time parameters or the commands still to come. The spec marks R331 as
derived; parameters and commands in the state are log 1 and log 3. -/
def Obligations.ParametersAreFixed : Prop :=
  ∀ (i : Instr) (s t : State), exec i s = .next t → SameOutside s t

/-- R268, R104: every operation completes from every state, with one of the response codes its row allows. The spec
marks R268 as derived; that the `ERR_*` answers run is log 5. -/
def Obligations.EveryOperationCompletes : Prop :=
  ∀ (i : Instr) (s : State),
    Completes i s fun _ r => ∃ c ∈ allowedCodes (instrOp i), r.rc = responseCode c

/-- R44: over any sequence of operations without `RESET`, what was buffered and everything fed since, less what was
removed from the head, is what is buffered (for the unbounded buffer). The spec marks R44 as derived from R26, R27,
R260 and R263. -/
def Obligations.NothingIsLostButFromTheHead : Prop :=
  ∀ (ops : List Instr) (s t : State), s.par.bufCap = none → Instr.reset ∉ ops → execAll ops s = .next t →
    s.gHead ≤ t.gHead ∧ t.gIn = s.gIn + (fedBytes ops).length ∧
      t.buf = (s.buf ++ fedBytes ops).drop (t.gHead - s.gHead)

/-! ### Commands -/

/-- R105: when the next command decodes to an operation, a step removes that command and is `exec` of the operation.
The packaging is the spec's decision D1; the waiting commands are log 3. -/
def Obligations.StepRunsTheDecodedOperation : Prop :=
  ∀ (s : State) (c : Command) (rest : List Command) (i : Instr), s.cmds = c :: rest → decode s.par c = .ok i →
    step s = exec i { s with cmds := rest }

/-- R106: an unassigned operation code is answered `ERR_ILLEGAL_OP` with no state change. The answer is the spec's
decision D25; that the model runs it is log 5. -/
def Obligations.UnassignedCodeIsAnswered : Prop :=
  ∀ (s : State) (c : Command) (rest : List Command), s.cmds = c :: rest →
    c.op.toNat ∉ [0x00, 0x01, 0x02, 0x10, 0x11, 0x12, 0x13, 0x14, 0x15, 0x16, 0x17, 0x18, 0x20, 0x21, 0x22, 0x23,
      0x24, 0x25, 0x26, 0x27, 0x30, 0x31, 0x32, 0x33, 0x34, 0x35, 0x36, 0x37, 0x38, 0x40, 0x41, 0x42, 0x43, 0x44,
      0x45, 0x46, 0x47, 0x48, 0x49, 0x4A, 0x4B, 0x4F, 0x7F] →
    ∃ t r, step s = .next t ∧ t.resp = some r ∧ r.rc = responseCode .errIllegalOp ∧ SameFramer s t ∧
      t.cmds = rest ∧ t.par = s.par

/-- U1, R105, R130, R160 (log 6): from every state a step refuses exactly when the next command's wires carry what its
operation's port cannot, and otherwise gives a next state, doing nothing where no command waits (log 3). Unpresentable
are: `DECODE` data of a length other than 6; a field value of at least 2 to the field's width for a mutator and for
`ALLOW_APID`; a Boolean of at least 2; a total or a number of bytes of more than `LEN_W` bits; a bound that is present
and of more than `LEN_W` bits. Every wire an operation does not use is ignored: commands that agree on the code and on
the wires its row uses decode alike, and an absent optional operand's value is not used. The packaging is the spec's
decision D1. -/
def Obligations.StepStopsOnlyOnUnpresentableOperands : Prop :=
  (∀ s : State, s.cmds = [] → step s = .next s) ∧
  (∀ (s : State) (c : Command) (rest : List Command), s.cmds = c :: rest →
    (NotPresentable s.par c → step s = .refused (.operandNotPresentable c.op)) ∧
    (¬NotPresentable s.par c → ∃ t, step s = .next t)) ∧
  ∀ (P : Params) (c d : Command), c.op = d.op →
    (c.op ∈ [0x00, 0x01, 0x02] → c.order = d.order) →
    (c.op ∈ [0x02, 0x10, 0x11, 0x12, 0x13, 0x14, 0x15, 0x16, 0x17, 0x18, 0x20, 0x21, 0x22, 0x23, 0x24, 0x25, 0x26,
      0x27] → c.hdr = d.hdr) →
    (c.op ∈ [0x20, 0x21, 0x22, 0x23, 0x24, 0x25, 0x26, 0x27, 0x32, 0x43, 0x45, 0x46, 0x47, 0x48, 0x49, 0x4A] →
      c.val = d.val) →
    (c.op ∈ [0x41, 0x42, 0x4B] → c.present = d.present) →
    (c.op ∈ [0x41, 0x42] → c.present = true → c.val = d.val) →
    (c.op ∈ [0x00, 0x01, 0x30, 0x31, 0x44] → c.data = d.data) →
    (c.op = 0x40 → c.setPresent = d.setPresent) →
    (c.op = 0x40 → c.setPresent = true → c.set = d.set) →
    decode P c = decode P d

/-- Decode and encode agree: every operation the interface can present (R105, R110) is read back from its command,
every operand at every value. The packaging is the spec's decision D1. -/
def Obligations.DecodeOfEncode : Prop :=
  ∀ (P : Params) (i : Instr), WellFormed P i = true → decode P (encode i) = .ok i

/-- What the decoder accepts is well formed, has the row of its code (R110), and its own command carries that code and
decodes to it again. The packaging is the spec's decision D1. -/
def Obligations.DecodedOperationsAreWellFormed : Prop :=
  ∀ (P : Params) (c : Command) (i : Instr), decode P c = .ok i →
    WellFormed P i = true ∧ (encode i).op = c.op ∧ opOfCode c.op = some (instrOp i) ∧ decode P (encode i) = .ok i

/-- R110, R106: the code of every one of the 43 rows, written out from the table, is decoded to that row's operation,
and a code that is none of these names no operation. The codes are the spec's decision D2; the operand wires of a
table word are zero (log 4). -/
def Obligations.EveryRowDecodesFromItsCode : Prop :=
  ([0x00, 0x01, 0x02].map (decodeTableWord 8) =
    [some (.decode ⟨0, 0, 0, 0, 0, 0⟩ .be), some (.decodeSlice [0, 0, 0, 0, 0, 0] .be), some (.encode ⟨0, 0, 0⟩ .be)] ∧
  [0x10, 0x11, 0x12, 0x13, 0x14, 0x15, 0x16, 0x17, 0x18].map (decodeTableWord 8) =
    [some (.getVersion ⟨0, 0, 0⟩), some (.getPacketType ⟨0, 0, 0⟩), some (.getSecHdrFlag ⟨0, 0, 0⟩),
      some (.getApid ⟨0, 0, 0⟩), some (.getSeqType ⟨0, 0, 0⟩), some (.getSeqCount ⟨0, 0, 0⟩),
      some (.getLengthField ⟨0, 0, 0⟩), some (.packetLength ⟨0, 0, 0⟩), some (.dataLength ⟨0, 0, 0⟩)] ∧
  [0x20, 0x21, 0x22, 0x23, 0x24, 0x25, 0x26, 0x27].map (decodeTableWord 8) =
    [some (.setVersion ⟨0, 0, 0⟩ 0), some (.setPacketType ⟨0, 0, 0⟩ 0), some (.setSecHdrFlag ⟨0, 0, 0⟩ 0),
      some (.setApid ⟨0, 0, 0⟩ 0), some (.setSeqType ⟨0, 0, 0⟩ 0), some (.setSeqCount ⟨0, 0, 0⟩ 0),
      some (.setLengthField ⟨0, 0, 0⟩ 0), some (.setPacketLength ⟨0, 0, 0⟩ 0)] ∧
  [0x30, 0x31, 0x32, 0x33, 0x34, 0x35, 0x36, 0x37, 0x38].map (decodeTableWord 8) =
    [some (.recvBytes [0, 0, 0, 0, 0, 0]), some (.recvSlice [0, 0, 0, 0, 0, 0]), some (.allowApid 0),
      some .currentHeader, some .currentStatus, some .reject, some .pullPacket, some .next, some .getSkipped] ∧
  [0x40, 0x41, 0x42, 0x43, 0x44, 0x45, 0x46, 0x47, 0x48, 0x49, 0x4A, 0x4B, 0x4F].map (decodeTableWord 8) =
    [some (.cfgAllowedApids none), some (.cfgMaxPacketLength none), some (.cfgMinPacketLength none),
      some (.cfgSecondaryHeaderRequired false), some (.cfgSyncBytes [0, 0, 0, 0, 0, 0]), some (.cfgKeepSync false),
      some (.cfgNumHeaderBytes 0), some (.cfgKeepHeader false), some (.cfgNumFooterBytes 0),
      some (.cfgKeepFooter false), some (.cfgLittleEndianHeader false), some (.cfgValidationCallback false),
      some .cfgRead] ∧
  decodeTableWord 8 0x7F = some .reset) ∧
  ∀ (P : Params) (c : Command),
    decode P c = .error (.unassignedOp c.op) ↔
      c.op.toNat ∉ [0x00, 0x01, 0x02, 0x10, 0x11, 0x12, 0x13, 0x14, 0x15, 0x16, 0x17, 0x18, 0x20, 0x21, 0x22, 0x23,
        0x24, 0x25, 0x26, 0x27, 0x30, 0x31, 0x32, 0x33, 0x34, 0x35, 0x36, 0x37, 0x38, 0x40, 0x41, 0x42, 0x43, 0x44,
        0x45, 0x46, 0x47, 0x48, 0x49, 0x4A, 0x4B, 0x4F, 0x7F]

/-! ### The invariant -/

/-- R44, R26: every step keeps the invariant (the length of the buffer is what was appended less what was removed, the
counter is at most what was removed, the buffer is within its capacity, the configured values fit their fields), from
every state that has it. The spec marks R44 as derived; the legal configuration values are the spec's decision D19. -/
def Obligations.EveryStepKeepsTheInvariant : Prop :=
  ∀ s t : State, Inv s → step s = .next t → Inv t

/-- The reset state has the invariant (R44, R45, R26). The reset values are the spec's decisions D5 and D6. -/
def Obligations.ResetHasTheInvariant : Prop :=
  Inv State.reset
end

