-- ==== Sys2Proof/Laws/State.lean ====
section
/-! SUPPORT. One lemma per field per update of the state, so that no proof unfolds a record update. -/

namespace Sys2Proof.Machine

@[simp] theorem bufAppend_buf (d : List Byte) (s : State) : (bufAppend d s).buf = s.buf ++ d := rfl

@[simp] theorem bufAppend_skipped (d : List Byte) (s : State) : (bufAppend d s).skipped = s.skipped := rfl

@[simp] theorem bufAppend_endLatch (d : List Byte) (s : State) : (bufAppend d s).endLatch = s.endLatch := rfl

@[simp] theorem bufAppend_cfg (d : List Byte) (s : State) : (bufAppend d s).cfg = s.cfg := rfl

@[simp] theorem bufAppend_gIn (d : List Byte) (s : State) : (bufAppend d s).gIn = s.gIn + d.length := rfl

@[simp] theorem bufAppend_gHead (d : List Byte) (s : State) : (bufAppend d s).gHead = s.gHead := rfl

@[simp] theorem bufAppend_par (d : List Byte) (s : State) : (bufAppend d s).par = s.par := rfl

@[simp] theorem bufAppend_cmds (d : List Byte) (s : State) : (bufAppend d s).cmds = s.cmds := rfl

@[simp] theorem bufAppend_freeSeq (d : List Byte) (s : State) : (bufAppend d s).freeSeq = s.freeSeq := rfl

@[simp] theorem bufAppend_resp (d : List Byte) (s : State) : (bufAppend d s).resp = s.resp := rfl

@[simp] theorem bufDrop_buf (n : Nat) (s : State) : (bufDrop n s).buf = s.buf.drop n := rfl

@[simp] theorem bufDrop_skipped (n : Nat) (s : State) : (bufDrop n s).skipped = s.skipped := rfl

@[simp] theorem bufDrop_endLatch (n : Nat) (s : State) : (bufDrop n s).endLatch = s.endLatch := rfl

@[simp] theorem bufDrop_cfg (n : Nat) (s : State) : (bufDrop n s).cfg = s.cfg := rfl

@[simp] theorem bufDrop_gIn (n : Nat) (s : State) : (bufDrop n s).gIn = s.gIn := rfl

@[simp] theorem bufDrop_gHead (n : Nat) (s : State) : (bufDrop n s).gHead = s.gHead + n := rfl

@[simp] theorem bufDrop_par (n : Nat) (s : State) : (bufDrop n s).par = s.par := rfl

@[simp] theorem bufDrop_cmds (n : Nat) (s : State) : (bufDrop n s).cmds = s.cmds := rfl

@[simp] theorem bufDrop_freeSeq (n : Nat) (s : State) : (bufDrop n s).freeSeq = s.freeSeq := rfl

@[simp] theorem bufDrop_resp (n : Nat) (s : State) : (bufDrop n s).resp = s.resp := rfl

@[simp] theorem advance1_buf (s : State) : (advance1 s).buf = s.buf.drop 1 := rfl

@[simp] theorem advance1_skipped (s : State) : (advance1 s).skipped = s.skipped + 1 := rfl

@[simp] theorem advance1_endLatch (s : State) : (advance1 s).endLatch = s.endLatch := rfl

@[simp] theorem advance1_cfg (s : State) : (advance1 s).cfg = s.cfg := rfl

@[simp] theorem advance1_gIn (s : State) : (advance1 s).gIn = s.gIn := rfl

@[simp] theorem advance1_gHead (s : State) : (advance1 s).gHead = s.gHead + 1 := rfl

@[simp] theorem advance1_par (s : State) : (advance1 s).par = s.par := rfl

@[simp] theorem advance1_cmds (s : State) : (advance1 s).cmds = s.cmds := rfl

@[simp] theorem advance1_freeSeq (s : State) : (advance1 s).freeSeq = s.freeSeq := rfl

@[simp] theorem advance1_resp (s : State) : (advance1 s).resp = s.resp := rfl

@[simp] theorem respond_buf (r : Result) (s : State) : (respond r s).buf = s.buf := rfl

@[simp] theorem respond_skipped (r : Result) (s : State) : (respond r s).skipped = s.skipped := rfl

@[simp] theorem respond_endLatch (r : Result) (s : State) : (respond r s).endLatch = s.endLatch := rfl

@[simp] theorem respond_cfg (r : Result) (s : State) : (respond r s).cfg = s.cfg := rfl

@[simp] theorem respond_gIn (r : Result) (s : State) : (respond r s).gIn = s.gIn := rfl

@[simp] theorem respond_gHead (r : Result) (s : State) : (respond r s).gHead = s.gHead := rfl

@[simp] theorem respond_par (r : Result) (s : State) : (respond r s).par = s.par := rfl

@[simp] theorem respond_cmds (r : Result) (s : State) : (respond r s).cmds = s.cmds := rfl

@[simp] theorem respond_freeSeq (r : Result) (s : State) : (respond r s).freeSeq = s.freeSeq + 1 := rfl

@[simp] theorem respond_resp (r : Result) (s : State) : (respond r s).resp = some (responseOf r s.freeSeq) := rfl

@[simp] theorem respondError_buf (e : ResponseCode) (s : State) : (respondError e s).buf = s.buf := rfl

@[simp] theorem respondError_skipped (e : ResponseCode) (s : State) : (respondError e s).skipped = s.skipped := rfl

@[simp] theorem respondError_endLatch (e : ResponseCode) (s : State) : (respondError e s).endLatch = s.endLatch := rfl

@[simp] theorem respondError_cfg (e : ResponseCode) (s : State) : (respondError e s).cfg = s.cfg := rfl

@[simp] theorem respondError_gIn (e : ResponseCode) (s : State) : (respondError e s).gIn = s.gIn := rfl

@[simp] theorem respondError_gHead (e : ResponseCode) (s : State) : (respondError e s).gHead = s.gHead := rfl

@[simp] theorem respondError_par (e : ResponseCode) (s : State) : (respondError e s).par = s.par := rfl

@[simp] theorem respondError_cmds (e : ResponseCode) (s : State) : (respondError e s).cmds = s.cmds := rfl

@[simp] theorem respondError_freeSeq (e : ResponseCode) (s : State) : (respondError e s).freeSeq = s.freeSeq + 1 := rfl

@[simp] theorem respondError_resp (e : ResponseCode) (s : State) : (respondError e s).resp = some (responseOf { rc := e } s.freeSeq) := rfl

@[simp] theorem writeCfg_buf (c : ParserConfig) (s : State) : (writeCfg c s).buf = s.buf := rfl

@[simp] theorem writeCfg_skipped (c : ParserConfig) (s : State) : (writeCfg c s).skipped = s.skipped := rfl

@[simp] theorem writeCfg_endLatch (c : ParserConfig) (s : State) : (writeCfg c s).endLatch = s.endLatch := rfl

@[simp] theorem writeCfg_cfg (c : ParserConfig) (s : State) : (writeCfg c s).cfg = c := rfl

@[simp] theorem writeCfg_gIn (c : ParserConfig) (s : State) : (writeCfg c s).gIn = s.gIn := rfl

@[simp] theorem writeCfg_gHead (c : ParserConfig) (s : State) : (writeCfg c s).gHead = s.gHead := rfl

@[simp] theorem writeCfg_par (c : ParserConfig) (s : State) : (writeCfg c s).par = s.par := rfl

@[simp] theorem writeCfg_cmds (c : ParserConfig) (s : State) : (writeCfg c s).cmds = s.cmds := rfl

@[simp] theorem writeCfg_freeSeq (c : ParserConfig) (s : State) : (writeCfg c s).freeSeq = s.freeSeq + 1 := rfl

@[simp] theorem writeCfg_resp (c : ParserConfig) (s : State) : (writeCfg c s).resp = some (responseOf okResult s.freeSeq) := rfl

@[simp] theorem resetFramer_buf (s : State) : (resetFramer s).buf = [] := rfl

@[simp] theorem resetFramer_skipped (s : State) : (resetFramer s).skipped = 0 := rfl

@[simp] theorem resetFramer_endLatch (s : State) : (resetFramer s).endLatch = false := rfl

@[simp] theorem resetFramer_cfg (s : State) : (resetFramer s).cfg = ParserConfig.reset := rfl

@[simp] theorem resetFramer_gIn (s : State) : (resetFramer s).gIn = 0 := rfl

@[simp] theorem resetFramer_gHead (s : State) : (resetFramer s).gHead = 0 := rfl

@[simp] theorem resetFramer_par (s : State) : (resetFramer s).par = s.par := rfl

@[simp] theorem resetFramer_cmds (s : State) : (resetFramer s).cmds = s.cmds := rfl

@[simp] theorem resetFramer_freeSeq (s : State) : (resetFramer s).freeSeq = s.freeSeq := rfl

@[simp] theorem resetFramer_resp (s : State) : (resetFramer s).resp = s.resp := rfl

@[simp] theorem bufTake_fst (n : Nat) (s : State) : (bufTake n s).1 = bufDrop n s := rfl

@[simp] theorem bufTake_snd (n : Nat) (s : State) : (bufTake n s).2 = s.buf.take n := rfl

@[simp] theorem responseOf_rc (r : Result) (k : Nat) : (responseOf r k).rc = responseCode r.rc := rfl

/-- Status, header, value, data and configuration wires of a result that drives them. -/
@[simp] theorem responseOf_status (st : Status) (c : ResponseCode) (k : Nat) :
    (responseOf { rc := c, status := some st } k).status = statusCode st := rfl

@[simp] theorem responseOf_hdr (h : Header) (k : Nat) : (responseOf (headerResult h) k).hdr = packHeader h := rfl

@[simp] theorem responseOf_val (n k : Nat) : (responseOf (valueResult n) k).val = n := rfl

@[simp] theorem responseOf_data (d : List Byte) (k : Nat) : (responseOf (dataResult d) k).data = d := rfl

@[simp] theorem headerResult_rc (h : Header) : (headerResult h).rc = .ok := rfl

@[simp] theorem valueResult_rc (n : Nat) : (valueResult n).rc = .ok := rfl

@[simp] theorem dataResult_rc (d : List Byte) : (dataResult d).rc = .ok := rfl

@[simp] theorem okResult_rc : okResult.rc = .ok := rfl

@[simp] theorem noneResult_rc : noneResult.rc = .none := rfl

@[simp] theorem optHeaderResult_some (h : Header) : optHeaderResult (some h) = headerResult h := rfl

@[simp] theorem optHeaderResult_none : optHeaderResult none = noneResult := rfl

@[simp] theorem optDataResult_some (d : List Byte) : optDataResult (some d) = dataResult d := rfl

@[simp] theorem optDataResult_none : optDataResult none = noneResult := rfl

/-- A response leaves the framer as it is. -/
theorem respond_sameFramer (r : Result) (s : State) : SameFramer s (respond r s) :=
  ⟨rfl, rfl, rfl, rfl, rfl, rfl⟩

/-- A response leaves the parameters and the commands as they are. -/
theorem respond_sameOutside (r : Result) (s : State) : SameOutside s (respond r s) :=
  ⟨rfl, rfl⟩

/-- The status is a function of the parameters, the configuration and the buffer alone (R29). -/
theorem status_congr {s t : State} (hp : t.par = s.par) (hc : t.cfg = s.cfg) (hb : t.buf = s.buf) :
    status t = status s := by
  simp [status, hp, hc, hb]

@[simp] theorem status_respond (r : Result) (s : State) : status (respond r s) = status s := rfl

end Sys2Proof.Machine
end

