-- ==== Sys2Proof/Laws/Codec.lean ====
section
/-! SUPPORT. What the codec's shared operations do: fields, words and bytes, regions, the APID set
(spec/30_encoding.md R93 to R96). -/

namespace Sys2Proof.Machine

/-- `Field(w, sh, n)` as a number (R96). -/
theorem field_toNat (w : Word) (sh n : Nat) : (field w sh n).toNat = w.toNat / 2 ^ sh % 2 ^ n := by
  simp [field, Nat.shiftRight_eq_div_pow]

/-- A bit of a field. -/
theorem field_getLsbD (w : Word) (sh n i : Nat) :
    (field w sh n).getLsbD i = (decide (i < n) && w.getLsbD (sh + i)) := by
  simp [field]

/-- `Insert` replaces every bit of the field and keeps every other bit (R96). -/
theorem insertField_getLsbD (w : Word) (sh n : Nat) (v : BitVec n) (i : Nat) (hn : sh + n ≤ 16) :
    (insertField w sh n v).getLsbD i = if sh ≤ i ∧ i < sh + n then v.getLsbD (i - sh) else w.getLsbD i := by
  unfold insertField fieldMask
  by_cases h16 : i < 16
  · by_cases hlo : sh ≤ i
    · by_cases hhi : i < sh + n
      · have h1 : ¬ i < sh := by omega
        have h2 : i - sh < n := by omega
        simp [h16, hlo, hhi, h1, h2]
      · have h1 : ¬ i < sh := by omega
        have h2 : ¬ i - sh < n := by omega
        have h3 : v.getLsbD (i - sh) = false := BitVec.getLsbD_of_ge _ _ (by omega)
        simp [h16, hlo, hhi, h1, h2, h3]
    · have h1 : i < sh := by omega
      simp [h16, hlo, h1]
  · have h1 : ¬ i < sh + n := by omega
    have h2 : w.getLsbD i = false := BitVec.getLsbD_of_ge _ _ (by omega)
    simp [h16, h1, h2]

/-- Reading a field just written gives what was written (R168). -/
theorem field_insertField (w : Word) (sh n : Nat) (v : BitVec n) (hn : sh + n ≤ 16) :
    field (insertField w sh n v) sh n = v := by
  apply BitVec.eq_of_getLsbD_eq
  intro i hi
  rw [field_getLsbD, insertField_getLsbD _ _ _ _ _ hn]
  simp [hi]

/-- Writing a field leaves every disjoint field of the word (R96). -/
theorem field_insertField_of_disjoint (w : Word) (sh n sh' n' : Nat) (v : BitVec n) (hn : sh + n ≤ 16)
    (hd : sh + n ≤ sh' ∨ sh' + n' ≤ sh) : field (insertField w sh n v) sh' n' = field w sh' n' := by
  apply BitVec.eq_of_getLsbD_eq
  intro i hi
  rw [field_getLsbD, field_getLsbD, insertField_getLsbD _ _ _ _ _ hn, if_neg (by omega)]

/-- The last of two writes to one field wins. -/
theorem insertField_insertField (w : Word) (sh n : Nat) (v u : BitVec n) (hn : sh + n ≤ 16) :
    insertField (insertField w sh n v) sh n u = insertField w sh n u := by
  apply BitVec.eq_of_getLsbD_eq
  intro i hi
  simp only [insertField_getLsbD _ _ _ _ _ hn]
  split <;> rfl

/-- Writing back what a field holds changes nothing. -/
theorem insertField_field (w : Word) (sh n : Nat) (hn : sh + n ≤ 16) : insertField w sh n (field w sh n) = w := by
  apply BitVec.eq_of_getLsbD_eq
  intro i hi
  rw [insertField_getLsbD _ _ _ _ _ hn]
  split
  · rw [field_getLsbD]
    have h1 : i - sh < n := by omega
    have h2 : sh + (i - sh) = i := by omega
    simp [h1, h2]
  · rfl

/-- Writes to disjoint fields of one word commute. -/
theorem insertField_comm (w : Word) (sh n sh' n' : Nat) (v : BitVec n) (u : BitVec n') (hn : sh + n ≤ 16)
    (hn' : sh' + n' ≤ 16) (hd : sh + n ≤ sh' ∨ sh' + n' ≤ sh) :
    insertField (insertField w sh' n' u) sh n v = insertField (insertField w sh n v) sh' n' u := by
  apply BitVec.eq_of_getLsbD_eq
  intro i hi
  simp only [insertField_getLsbD _ _ _ _ _ hn, insertField_getLsbD _ _ _ _ _ hn']
  by_cases h1 : sh ≤ i ∧ i < sh + n
  · have : ¬ (sh' ≤ i ∧ i < sh' + n') := by omega
    simp [h1, this]
  · simp [h1]

@[simp] theorem getLengthField_eq (h : Header) : getLengthField h = h.w2 := by
  simp [getLengthField, field]

@[simp] theorem setLengthField_eq (h : Header) (v : BitVec 16) : setLengthField h v = { h with w2 := v } := by
  have hm : fieldMask 0 16 = 0xFFFF#16 := by decide
  have : insertField h.w2 0 16 v = v := by
    apply BitVec.eq_of_getLsbD_eq
    intro i hi
    rw [insertField_getLsbD _ _ _ _ _ (by omega)]
    simp [hi]
  simp [setLengthField, this]

theorem packetLength_eq (h : Header) : packetLength h = h.w2.toNat + 7 := by
  simp [packetLength]

theorem dataLength_eq (h : Header) : dataLength h = h.w2.toNat + 1 := by
  simp [dataLength]

/-- A word from its bytes is the more significant times 256 plus the less significant (R93). -/
theorem wordOf_be_toNat (x y : Byte) : (wordOf .be x y).toNat = x.toNat * 256 + y.toNat := by
  have hy := y.isLt
  simp only [wordOf, BitVec.toNat_append]
  rw [← Nat.shiftLeft_add_eq_or_of_lt hy, Nat.shiftLeft_eq]

theorem wordOf_le (x y : Byte) : wordOf .le x y = wordOf .be y x := rfl

/-- Splitting a word and joining its bytes again under one order gives the word (R93). -/
@[simp] theorem wordOf_bytes (order : ByteOrder) (w : Word) :
    wordOf order (firstByte order w) (secondByte order w) = w := by
  cases order <;>
  · apply BitVec.eq_of_getLsbD_eq
    intro i hi
    simp only [wordOf, firstByte, secondByte, BitVec.getLsbD_append, BitVec.getLsbD_extractLsb']
    by_cases h : i < 8
    · simp [h]
    · have h1 : i - 8 < 8 := by omega
      have h2 : 8 + (i - 8) = i := by omega
      simp [h, h1, h2]

@[simp] theorem firstByte_wordOf (order : ByteOrder) (x y : Byte) : firstByte order (wordOf order x y) = x := by
  cases order <;>
  · apply BitVec.eq_of_getLsbD_eq
    intro i hi
    simp only [wordOf, firstByte, BitVec.getLsbD_append, BitVec.getLsbD_extractLsb']
    simp [hi]

@[simp] theorem secondByte_wordOf (order : ByteOrder) (x y : Byte) : secondByte order (wordOf order x y) = y := by
  cases order <;>
  · apply BitVec.eq_of_getLsbD_eq
    intro i hi
    simp only [wordOf, secondByte, BitVec.getLsbD_append, BitVec.getLsbD_extractLsb']
    simp [hi]

@[simp] theorem regionOf_regionBytes (r : Region) : regionOf (regionBytes r) = some r := rfl

/-- A byte sequence is a region exactly when it has six bytes. -/
theorem regionOf_isSome (d : List Byte) : (regionOf d).isSome = true ↔ d.length = 6 := by
  match d with
  | [] => simp [regionOf]
  | [_] => simp [regionOf]
  | [_, _] => simp [regionOf]
  | [_, _, _] => simp [regionOf]
  | [_, _, _, _] => simp [regionOf]
  | [_, _, _, _, _] => simp [regionOf]
  | [_, _, _, _, _, _] => simp [regionOf]
  | _ :: _ :: _ :: _ :: _ :: _ :: _ :: _ => simp [regionOf]

theorem regionOf_eq_some {d : List Byte} {r : Region} (h : regionOf d = some r) : d = regionBytes r := by
  unfold regionOf at h
  split at h
  · cases h; rfl
  · cases h

/-- `DECODE_SLICE` reads the first six bytes (R131). -/
@[simp] theorem decodeSlice_regionBytes (r : Region) (rest : List Byte) (order : ByteOrder) :
    decodeSlice (regionBytes r ++ rest) order = some (decodeHeader r order) := rfl

/-- `DECODE_SLICE` gives a header exactly when there are six bytes (R131). -/
theorem decodeSlice_isSome (d : List Byte) (order : ByteOrder) :
    (decodeSlice d order).isSome = true ↔ 6 ≤ d.length := by
  rw [decodeSlice, Option.isSome_map, regionOf_isSome]
  simp

theorem decodeSlice_eq_none {d : List Byte} (order : ByteOrder) (h : d.length < 6) : decodeSlice d order = none := by
  have := decodeSlice_isSome d order
  cases hd : decodeSlice d order with
  | none => rfl
  | some x => simp [hd] at this; omega

/-- A wire of the packed header: `W[2]` lowest, then `W[1]`, then `W[0]` (R105). -/
theorem packHeader_getLsbD (h : Header) (i : Nat) :
    (packHeader h).getLsbD i =
      if i < 16 then h.w2.getLsbD i else if i - 16 < 16 then h.w1.getLsbD (i - 16) else h.w0.getLsbD (i - 16 - 16) := by
  have e1 : (packHeader h).getLsbD i = if i < 16 then h.w2.getLsbD i else (h.w0 ++ h.w1).getLsbD (i - 16) :=
    BitVec.getLsbD_append
  have e2 : (h.w0 ++ h.w1).getLsbD (i - 16) =
      if i - 16 < 16 then h.w1.getLsbD (i - 16) else h.w0.getLsbD (i - 16 - 16) :=
    BitVec.getLsbD_append
  rw [e1, e2]

@[simp] theorem unpackHeader_packHeader (h : Header) : unpackHeader (packHeader h) = h := by
  have h0 : (packHeader h).extractLsb' 32 16 = h.w0 := by
    apply BitVec.eq_of_getLsbD_eq
    intro i hi
    rw [BitVec.getLsbD_extractLsb', packHeader_getLsbD, if_neg (by omega), if_neg (by omega),
      show 32 + i - 16 - 16 = i by omega]
    simp [hi]
  have h1 : (packHeader h).extractLsb' 16 16 = h.w1 := by
    apply BitVec.eq_of_getLsbD_eq
    intro i hi
    rw [BitVec.getLsbD_extractLsb', packHeader_getLsbD, if_neg (by omega), if_pos (by omega),
      show 16 + i - 16 = i by omega]
    simp [hi]
  have h2 : (packHeader h).extractLsb' 0 16 = h.w2 := by
    apply BitVec.eq_of_getLsbD_eq
    intro i hi
    rw [BitVec.getLsbD_extractLsb', packHeader_getLsbD, if_pos (by omega)]
    simp [hi]
  simp only [unpackHeader, h0, h1, h2]

/-- Distinct header values have distinct wires. -/
theorem packHeader_inj {h k : Header} (e : packHeader h = packHeader k) : h = k := by
  rw [← unpackHeader_packHeader h, e, unpackHeader_packHeader]

/-- Membership after adding one APID (R222). -/
theorem addApid_getLsbD (set : ApidSet) (a : Apid) (i : Nat) (hi : i < 2048) :
    (addApid set a).getLsbD i = (set.getLsbD i || decide (i = a.toNat)) := by
  unfold addApid
  by_cases h : i = a.toNat
  · subst h
    simp [hi]
  · by_cases h2 : i < a.toNat
    · simp [hi, h, h2]
    · have h3 : ¬ (i - a.toNat = 0) := by omega
      simp [hi, h, h3]

/-- The empty set has no member (R355). -/
@[simp] theorem noApids_getLsbD (i : Nat) : noApids.getLsbD i = false := by
  simp [noApids]

end Sys2Proof.Machine
end

