-- ==== Sys2Proof/Laws/Decode.lean ====
section
/-! SUPPORT. What the decoder's parts do (spec/30_encoding.md R105, R106, R110). -/

namespace Sys2Proof

/-- The code of a row names the row: no two rows share a code (R110). -/
@[simp] theorem opOfCode_opCode (o : Op) : opOfCode (opCode o) = some o := by
  cases o <;> rfl

/-- A code names a row only if it is the row's code. -/
theorem opCode_of_opOfCode {code : BitVec 8} {o : Op} (h : opOfCode code = some o) : opCode o = code := by
  have := List.find?_some h
  simpa using this

@[simp] theorem orderOf_orderBit (o : ByteOrder) : orderOf (orderBit o) = o := by
  cases o <;> rfl

@[simp] theorem portVal_toNat {n : Nat} (v : BitVec n) : portVal n v.toNat = some v := by
  simp [portVal, v.isLt]

@[simp] theorem portBool_boolVal (b : Bool) : portBool (boolVal b) = some b := by
  cases b <;> rfl

theorem portLen_of_fits {P : Params} {v : Nat} (h : lenFits P v = true) : portLen P v = some v := by
  simp [portLen, h]

theorem portLen_eq_some {P : Params} {v m : Nat} (h : portLen P v = some m) : m = v ∧ lenFits P m = true := by
  unfold portLen at h
  split at h
  · cases h; exact ⟨rfl, ‹_›⟩
  · cases h

theorem portOptLen_eq_some {P : Params} {p : Bool} {v : Nat} {m : Option Nat} (h : portOptLen P p v = some m) :
    optLenFits P m = true := by
  unfold portOptLen at h
  split at h
  · obtain ⟨k, hk, rfl⟩ := Option.map_eq_some_iff.mp h
    exact (portLen_eq_some hk).2
  · cases h; rfl

/-- A port of `n` bits carries exactly the values below `2 ^ n` (R160, U1). -/
theorem portVal_eq_none {n v : Nat} : portVal n v = none ↔ 2 ^ n ≤ v := by
  simp [portVal]

/-- A Boolean port carries 0 and 1 (R14). -/
theorem portBool_eq_none {v : Nat} : portBool v = none ↔ 2 ≤ v := by
  simp only [portBool, Option.map_eq_none_iff, portVal_eq_none, pow_one]

/-- A length port carries the values of at most `LEN_W` bits (R105). -/
theorem portLen_eq_none {P : Params} {v : Nat} : portLen P v = none ↔ 2 ^ P.lenW ≤ v := by
  simp [portLen, lenFits]

/-- An optional length is not carried only when it is present and too wide (R105). -/
theorem portOptLen_eq_none {P : Params} {p : Bool} {v : Nat} :
    portOptLen P p v = none ↔ p = true ∧ 2 ^ P.lenW ≤ v := by
  cases p <;> simp [portOptLen, portLen_eq_none]

/-- The value of an absent optional length is not read. -/
theorem portOptLen_congr {P : Params} {p : Bool} {v w : Nat} (h : p = true → v = w) :
    portOptLen P p v = portOptLen P p w := by
  cases p
  · rfl
  · rw [h rfl]

/-- `DECODE` takes exactly six bytes (R130). -/
theorem regionOf_eq_none {d : List Byte} : regionOf d = none ↔ d.length ≠ 6 := by
  rw [← Option.not_isSome_iff_eq_none, Machine.regionOf_isSome]

/-- Why a command is no operation: its code is no row's, or its row's operands are not carried. -/
theorem decode_eq_error {P : Params} {c : Command} {e : DecodeError} :
    decode P c = .error e ↔ (opOfCode c.op = none ∧ e = .unassignedOp c.op) ∨
      ∃ o, opOfCode c.op = some o ∧ decodeOperands P o c = none ∧ e = .operandNotPresentable c.op := by
  unfold decode
  cases ho : opOfCode c.op with
  | none => simp [eq_comm]
  | some o => cases hd : decodeOperands P o c <;> simp [hd, eq_comm]

/-- The decoder: the row of the code, then the operands of the row (R105, R106). -/
theorem decode_eq_ok {P : Params} {c : Command} {i : Instr} :
    decode P c = .ok i ↔ ∃ o, opOfCode c.op = some o ∧ decodeOperands P o c = some i := by
  unfold decode
  cases ho : opOfCode c.op with
  | none => simp
  | some o => cases hd : decodeOperands P o c <;> simp [hd]

/-- What a row's operands decode to is an operation of that row. -/
theorem decodeOperands_op {P : Params} {o : Op} {c : Command} {i : Instr} (h : decodeOperands P o c = some i) :
    instrOp i = o := by
  cases o <;> simp only [decodeOperands, Option.map_eq_some_iff, Option.some.injEq] at h <;>
    first
    | (subst h; rfl)
    | (obtain ⟨_, _, rfl⟩ := h; rfl)

/-- What a row's operands decode to is well formed. -/
theorem decodeOperands_wf {P : Params} {o : Op} {c : Command} {i : Instr} (h : decodeOperands P o c = some i) :
    WellFormed P i = true := by
  cases o <;> simp only [decodeOperands, Option.map_eq_some_iff, Option.some.injEq] at h <;>
    first
    | (subst h; rfl)
    | (obtain ⟨_, hp, rfl⟩ := h; first | rfl | exact (portLen_eq_some hp).2 | exact portOptLen_eq_some hp)

end Sys2Proof
end

