-- ==== Sys2Proof/Laws/Status.lean ====
section
/-! SUPPORT. What the buffer operations and the ten-step classification do (spec/20_memory.md R60 to R71,
spec/44_framer_status.md R190 to R209). -/

namespace Sys2Proof.Machine

/-! ### The buffer -/

theorem bufRead_eq_some {buf : List Byte} {off n : Nat} (h : off + n ≤ buf.length) :
    bufRead buf off n = some ((buf.drop off).take n) := by
  simp [bufRead, h]

theorem bufRead_eq_none {buf : List Byte} {off n : Nat} (h : buf.length < off + n) : bufRead buf off n = none := by
  simp [bufRead]; omega

/-- The cells of the buffer are its bytes, each at its offset. -/
theorem bufferCells_getElem? (buf : List Byte) (i : Nat) :
    (bufferCells buf)[i]? = (readByte buf i).map fun b => (i, b) := by
  simp only [bufferCells, readByte, List.getElem?_map, List.getElem?_zipIdx, Option.map_map]
  cases buf[i]? <;> simp

/-- The offsets of the cells rise strictly: the buffer is its own canonical form (log 12). -/
theorem bufferCells_rising (buf : List Byte) : ((bufferCells buf).map Prod.fst).Pairwise (· < ·) := by
  have : (bufferCells buf).map Prod.fst = List.range' 0 buf.length := by
    simp [bufferCells, Function.comp_def]
  rw [this]
  exact List.pairwise_lt_range'

/-- Equal cells are equal buffers. -/
theorem bufferCells_inj {a b : List Byte} (h : bufferCells a = bufferCells b) : a = b := by
  have key : ∀ l : List Byte, (bufferCells l).map Prod.snd = l := fun l => by
    simp [bufferCells, Function.comp_def]
  rw [← key a, h, key b]

theorem withinCap_mono {cap : Option Nat} {m n : Nat} (hmn : m ≤ n) (h : withinCap cap n = true) :
    withinCap cap m = true := by
  cases cap with
  | none => rfl
  | some c => simp [withinCap] at *; omega

theorem withinCap_iff (cap : Option Nat) (n : Nat) : withinCap cap n = true ↔ ∀ c, cap = some c → n ≤ c := by
  cases cap <;> simp [withinCap]

/-- Removing bytes at the head keeps the buffer within its capacity. -/
theorem bufDrop_wf (n : Nat) (s : State) (h : Memory.wf s.par s.buf = true) :
    Memory.wf (bufDrop n s).par (bufDrop n s).buf = true :=
  withinCap_mono (by simp) h

theorem advance1_wf (s : State) (h : Memory.wf s.par s.buf = true) :
    Memory.wf (advance1 s).par (advance1 s).buf = true :=
  withinCap_mono (by simp) h

/-- An append that fits keeps the buffer within its capacity (R71). -/
theorem bufAppend_wf (d : List Byte) (s : State) (h : withinCap s.par.bufCap (s.buf.length + d.length) = true) :
    Memory.wf (bufAppend d s).par (bufAppend d s).buf = true := by
  simpa [Memory.wf] using h

/-- The empty buffer is within every capacity. -/
theorem nil_wf (P : Params) : Memory.wf P [] = true := by
  cases h : P.bufCap <;> simp [Memory.wf, withinCap, h]

/-- Taking bytes from the head keeps the buffer within its capacity. -/
theorem bufTake_wf (n : Nat) (s : State) (h : Memory.wf s.par s.buf = true) :
    Memory.wf (bufTake n s).1.par (bufTake n s).1.buf = true :=
  bufDrop_wf n s h

/-! ### The header at the head -/

/-- The header is read when its six bytes are buffered, and only then (R190). -/
theorem headerAt_isSome (c : ParserConfig) (buf : List Byte) :
    (headerAt c buf).isSome = true ↔ headerOffset c + 6 ≤ buf.length := by
  unfold headerAt
  by_cases h : headerOffset c + 6 ≤ buf.length
  · rw [bufRead_eq_some h]
    simp only [h, iff_true]
    rw [decodeSlice_isSome]
    simp
    omega
  · rw [bufRead_eq_none (by omega)]
    simp [h]

theorem headerAt_eq_none {c : ParserConfig} {buf : List Byte} (h : buf.length < headerOffset c + 6) :
    headerAt c buf = none := by
  have := headerAt_isSome c buf
  cases hh : headerAt c buf with
  | none => rfl
  | some x => simp [hh] at this; omega

theorem headerAt_exists {c : ParserConfig} {buf : List Byte} (h : headerOffset c + 6 ≤ buf.length) :
    ∃ x, headerAt c buf = some x :=
  Option.isSome_iff_exists.mp ((headerAt_isSome c buf).mpr h)

/-- The header is that of the six bytes at the offset, whatever stands before and after them (R190). -/
theorem headerAt_split {c : ParserConfig} {before rest : List Byte} {b : Region} (h : before.length = headerOffset c) :
    headerAt c (before ++ (regionBytes b ++ rest)) = some (decodeHeader b (framerOrder c)) := by
  unfold headerAt
  rw [bufRead_eq_some (by simp [regionBytes, h]), List.drop_left' h]
  rfl

/-- Bytes appended behind a readable header do not change it. -/
theorem headerAt_append {c : ParserConfig} {buf : List Byte} (d : List Byte) (h : headerOffset c + 6 ≤ buf.length) :
    headerAt c (buf ++ d) = headerAt c buf := by
  unfold headerAt
  rw [bufRead_eq_some h, bufRead_eq_some (by simp; omega), List.drop_append_of_le_length (by omega),
    List.take_append_of_le_length (by simp; omega)]

theorem threshold1_ge (P : Params) (c : ParserConfig) : headerOffset c + 6 ≤ threshold1 P c := by
  simp only [threshold1]; omega

theorem frameLength_ge (c : ParserConfig) (h : Header) : headerOffset c + 7 ≤ frameLength c h := by
  simp only [frameLength, packetLength]; omega

/-! ### The classification -/

/-- The status is `NotEnoughBytesForHeader` below check 1's threshold, and the header's own classification above it
(R196). -/
theorem statusWith_cases (V : List Byte → Bool) (P : Params) (c : ParserConfig) (buf : List Byte) :
    (buf.length < threshold1 P c ∧ statusWith V P c buf = .notEnoughBytesForHeader) ∨
    (threshold1 P c ≤ buf.length ∧ ∃ h, headerAt c buf = some h ∧ statusWith V P c buf = statusOfHeader V c buf h) := by
  by_cases hl : buf.length < threshold1 P c
  · exact .inl ⟨hl, by simp [statusWith, hl]⟩
  · obtain ⟨h, hh⟩ := headerAt_exists (le_trans (threshold1_ge P c) (Nat.le_of_not_lt hl))
    exact .inr ⟨Nat.le_of_not_lt hl, h, hh, by simp [statusWith, hl, hh]⟩

/-- The status for a readable header is never `NotEnoughBytesForHeader`. -/
theorem statusOfHeader_ne_header (V : List Byte → Bool) (c : ParserConfig) (buf : List Byte) (h : Header) :
    statusOfHeader V c buf h ≠ .notEnoughBytesForHeader := by
  unfold statusOfHeader
  repeat' split
  all_goals simp

/-- Only below check 1's threshold is the status `NotEnoughBytesForHeader`. -/
theorem status_header_iff (V : List Byte → Bool) (P : Params) (c : ParserConfig) (buf : List Byte) :
    statusWith V P c buf = .notEnoughBytesForHeader ↔ buf.length < threshold1 P c := by
  rcases statusWith_cases V P c buf with ⟨hl, hs⟩ | ⟨hl, h, _, hs⟩
  · simp [hl, hs]
  · simp only [hs, statusOfHeader_ne_header, false_iff]
    omega

/-- Any other status needs the threshold's bytes. -/
theorem threshold1_le_of_ne {V : List Byte → Bool} {P : Params} {c : ParserConfig} {buf : List Byte}
    (h : statusWith V P c buf ≠ .notEnoughBytesForHeader) : threshold1 P c ≤ buf.length := by
  rw [Ne, status_header_iff] at h
  omega

/-- The empty buffer is `NotEnoughBytesForHeader` under every configuration (R206). -/
theorem statusWith_nil (V : List Byte → Bool) (P : Params) (c : ParserConfig) :
    statusWith V P c [] = .notEnoughBytesForHeader := by
  rw [status_header_iff]
  have := threshold1_ge P c
  simp
  omega

theorem malformed_ne_header {st : Status} (h : malformed st = true) : st ≠ .notEnoughBytesForHeader := by
  rintro rfl; simp [malformed, insufficient] at h

/-- A status that is not malformed is insufficient or valid (R207). -/
theorem not_malformed {st : Status} (h : malformed st = false) : insufficient st = true ∨ st = .validPacket := by
  cases st <;> simp_all [malformed, insufficient, valid]

theorem insufficient_validPacket : insufficient .validPacket = false := rfl

theorem insufficient_iff (st : Status) :
    insufficient st = true ↔ st = .notEnoughBytesForHeader ∨ st = .notEnoughBytesForPacket := by
  cases st <;> simp [insufficient]

/-- A status from check 6 on needs the whole frame buffered (R200, R209). -/
theorem frame_buffered {V : List Byte → Bool} {c : ParserConfig} {buf : List Byte} {h : Header}
    (hs : 6 ≤ (statusCode (statusOfHeader V c buf h)).toNat) : frameLength c h ≤ buf.length := by
  by_contra hn
  have hlt : buf.length < frameLength c h := by omega
  unfold statusOfHeader at hs
  repeat' split at hs
  all_goals simp [statusCode] at hs

/-- A valid head is a whole frame with a readable header (R205). -/
theorem valid_frame {V : List Byte → Bool} {P : Params} {c : ParserConfig} {buf : List Byte}
    (hs : statusWith V P c buf = .validPacket) : ∃ h, headerAt c buf = some h ∧ frameLength c h ≤ buf.length := by
  rcases statusWith_cases V P c buf with ⟨_, h⟩ | ⟨_, h, hh, h'⟩
  · rw [h] at hs; cases hs
  · exact ⟨h, hh, frame_buffered (V := V) (by rw [← h', hs]; decide)⟩

end Sys2Proof.Machine
end

