-- ==== Sys2Proof/Laws/Extraction.lean ====
section
/-! SUPPORT. What resynchronisation, extraction, `PULL_PACKET`, `NEXT` and reception do
(spec/46_framer_extract.md R262 to R266). -/

namespace Sys2Proof.Machine

/-- `k` advances in a row. -/
def advanced (k : Nat) (s : State) : State :=
  { s with buf := s.buf.drop k, skipped := s.skipped + k, gHead := s.gHead + k }

theorem advanced_zero (s : State) : advanced 0 s = s := by
  simp [advanced]

theorem advanced_advance1 (k : Nat) (s : State) : advanced k (advance1 s) = advanced (k + 1) s := by
  simp [advanced, advance1, bufDrop, Nat.add_comm, Nat.add_left_comm]

/-- The status after `k` advances is that of the buffer without its first `k` bytes. -/
theorem status_advanced (k : Nat) (s : State) :
    status (advanced k s) = statusWith Config.validate s.par s.cfg (s.buf.drop k) := rfl

/-- The loop stops at the first position that is not malformed, with every position before it dropped and counted
(R262, R302). -/
theorem resyncRounds_spec (n : Nat) (s : State) (hn : s.buf.length ≤ n) :
    ∃ k, k ≤ s.buf.length ∧ resyncRounds n s = advanced k s ∧
      (∀ j, j < k → malformed (status (advanced j s)) = true) ∧ malformed (status (advanced k s)) = false := by
  induction n generalizing s with
  | zero =>
    have hb : s.buf = [] := List.length_eq_zero_iff.mp (by omega)
    refine ⟨0, by omega, (advanced_zero s).symm, by omega, ?_⟩
    rw [status_advanced, hb, List.drop_nil, statusWith_nil]
    rfl
  | succ n ih =>
    by_cases hm : malformed (status s) = true
    · have hlen : 6 ≤ s.buf.length :=
        le_trans (le_trans (by omega) (threshold1_ge s.par s.cfg)) (threshold1_le_of_ne (malformed_ne_header hm))
      obtain ⟨k, hk, he, hj, hlast⟩ := ih (advance1 s) (by simp; omega)
      simp only [advance1_buf, List.length_drop] at hk
      refine ⟨k + 1, by omega, ?_, ?_, ?_⟩
      · simp [resyncRounds, hm, he, advanced_advance1]
      · intro j hjk
        cases j with
        | zero => rwa [advanced_zero]
        | succ j => rw [← advanced_advance1]; exact hj j (by omega)
      · rwa [← advanced_advance1]
    · refine ⟨0, by omega, ?_, by omega, ?_⟩
      · simp [resyncRounds, hm, advanced_zero]
      · rw [advanced_zero]; simpa using hm

theorem resync_spec (s : State) :
    ∃ k, k ≤ s.buf.length ∧ resync s = advanced k s ∧
      (∀ j, j < k → malformed (status (advanced j s)) = true) ∧ malformed (status (advanced k s)) = false :=
  resyncRounds_spec s.buf.length s le_rfl

/-- A head that is not malformed is left alone. -/
theorem resync_of_not_malformed {s : State} (h : malformed (status s) = false) : resync s = s := by
  unfold resync
  cases hl : s.buf.length with
  | zero => rfl
  | succ n => simp [resyncRounds, h]

/-- A malformed head is advanced over (R302). -/
theorem resync_of_malformed {s : State} (h : malformed (status s) = true) : resync s = resync (advance1 s) := by
  have hlen : 6 ≤ s.buf.length :=
    le_trans (le_trans (by omega) (threshold1_ge s.par s.cfg)) (threshold1_le_of_ne (malformed_ne_header h))
  have e : s.buf.length = (advance1 s).buf.length + 1 := by simp; omega
  unfold resync
  rw [e]
  simp [resyncRounds, h]

/-- The loop performs at most `max(0, len(BUF) - T1 + 1)` advances (R265). -/
theorem resync_bound {s : State} {k : Nat} (hj : ∀ j, j < k → malformed (status (advanced j s)) = true) :
    k ≤ s.buf.length + 1 - threshold1 s.par s.cfg := by
  cases k with
  | zero => omega
  | succ k =>
    have := threshold1_le_of_ne (malformed_ne_header (hj k (by omega)))
    have t := threshold1_ge s.par s.cfg
    simp only [advanced, List.length_drop] at this
    omega

/-- How far into the frame the span starts (R263). -/
def spanStart (c : ParserConfig) : Nat :=
  (if c.keepSync then 0 else syncLen c) + (if c.keepHeader then 0 else c.numHeaderBytes)

/-- The closed form of `Extract` (R263): exactly the frame leaves the buffer, and the span is `F[a .. a + n)`. -/
theorem extract_spec (h : Header) (s : State) :
    (extract h s).1 = { s with buf := s.buf.drop (frameLength s.cfg h), gHead := s.gHead + frameLength s.cfg h } ∧
    (extract h s).2 = (s.buf.drop (spanStart s.cfg)).take (spanLength s.cfg h) := by
  obtain ⟨buf, skipped, latch, cfg, gIn, gHead, par, cmds, resp, seq⟩ := s
  obtain ⟨apids, mx, mn, req, sync, ks, p, kh, f, kf, le, cb⟩ := cfg
  cases ks <;> cases kh <;> cases kf <;>
    simp [extract, bufTake, bufDrop, spanLength, spanStart, frameLength, headerOffset, syncLen, List.drop_drop,
      packetLength] <;> omega

/-- The span lies within the frame (R263). -/
theorem span_le_frame (c : ParserConfig) (h : Header) : spanStart c + spanLength c h ≤ frameLength c h := by
  simp only [spanStart, spanLength, frameLength, headerOffset]
  split_ifs <;> omega

/-- `PULL_PACKET` in full (R262): the position it stops at, and what it does there. -/
theorem pull_spec (s : State) :
    ∃ k, k ≤ s.buf.length ∧ (∀ j, j < k → malformed (status (advanced j s)) = true) ∧
      ((insufficient (status (advanced k s)) = true ∧ pull s = (advanced k s, none)) ∨
       (status (advanced k s) = .validPacket ∧ ∃ h, headerAt s.cfg (s.buf.drop k) = some h ∧
          frameLength s.cfg h ≤ s.buf.length - k ∧
          pull s = ({ advanced k s with buf := s.buf.drop (k + frameLength s.cfg h)
                                        gHead := s.gHead + (k + frameLength s.cfg h) },
            some (((s.buf.drop k).drop (spanStart s.cfg)).take (spanLength s.cfg h))))) := by
  obtain ⟨k, hk, he, hj, hm⟩ := resync_spec s
  refine ⟨k, hk, hj, ?_⟩
  rcases not_malformed hm with hi | hv
  · left
    refine ⟨hi, ?_⟩
    simp [pull, he, hi]
  · right
    obtain ⟨h, hh, hl⟩ := valid_frame (by rw [← status_advanced]; exact hv)
    refine ⟨hv, h, hh, by simpa using hl, ?_⟩
    have hh' : headerAt (advanced k s).cfg (advanced k s).buf = some h := hh
    have hi : insufficient (status (advanced k s)) = false := by rw [hv]; rfl
    obtain ⟨e1, e2⟩ := extract_spec h (advanced k s)
    simp only [pull, he, hi, Bool.false_eq_true, if_false, hh', e1, e2]
    simp [advanced, List.drop_drop, Nat.add_assoc]

/-- `PULL_PACKET` at an insufficient-data head changes nothing (R303). -/
theorem pull_of_insufficient {s : State} (h : insufficient (status s) = true) : pull s = (s, none) := by
  have hm : malformed (status s) = false := by simp [malformed, h]
  simp [pull, resync_of_not_malformed hm, h]

/-- `PULL_PACKET` at a malformed head is `PULL_PACKET` after one advance (R302). -/
theorem pull_of_malformed {s : State} (h : malformed (status s) = true) : pull s = pull (advance1 s) := by
  simp [pull, resync_of_malformed h]

/-- `PULL_PACKET` at a valid head is `Extract` (R263). -/
theorem pull_of_valid {s : State} {h : Header} (hv : status s = .validPacket) (hh : headerAt s.cfg s.buf = some h) :
    pull s = ((extract h s).1, some (extract h s).2) := by
  have hm : malformed (status s) = false := by simp [hv, malformed, valid]
  simp [pull, resync_of_not_malformed hm, hv, insufficient, hh]

/-- When `PULL_PACKET` gives nothing, the head it leaves is insufficient (R262). -/
theorem pull_none_insufficient {s t : State} (h : pull s = (t, none)) : insufficient (status t) = true := by
  obtain ⟨k, -, -, ⟨hi, he⟩ | ⟨-, x, -, -, he⟩⟩ := pull_spec s
  · rw [he] at h; cases h; exact hi
  · rw [he] at h; cases h

/-- `PULL_PACKET` leaves everything but the buffer, the counter and the head position, and removes only at the
head. -/
theorem pull_frame (s : State) :
    (pull s).1.endLatch = s.endLatch ∧ (pull s).1.cfg = s.cfg ∧ (pull s).1.par = s.par ∧ (pull s).1.cmds = s.cmds ∧
      (pull s).1.gIn = s.gIn ∧ (pull s).1.freeSeq = s.freeSeq ∧ (pull s).1.resp = s.resp ∧
      s.skipped ≤ (pull s).1.skipped ∧ (pull s).1.skipped - s.skipped ≤ (pull s).1.gHead - s.gHead ∧
      s.gHead ≤ (pull s).1.gHead ∧ (pull s).1.gHead ≤ s.gHead + s.buf.length ∧
      (pull s).1.buf = s.buf.drop ((pull s).1.gHead - s.gHead) := by
  obtain ⟨k, hk, -, ⟨-, he⟩ | ⟨-, h, -, hl, he⟩⟩ := pull_spec s <;> rw [he] <;> simp [advanced] <;> omega

/-- A packet that `PULL_PACKET` gives is a run of the buffer, at least 7 bytes long, that has left it (R74). -/
theorem pull_packet {s : State} {d : List Byte} (h : (pull s).2 = some d) :
    ∃ a b, s.gHead ≤ a ∧ a + 7 ≤ b ∧ b ≤ (pull s).1.gHead ∧ d = (s.buf.drop (a - s.gHead)).take (b - a) := by
  obtain ⟨k, hk, -, ⟨-, he⟩ | ⟨-, x, -, hl, he⟩⟩ := pull_spec s
  · rw [he] at h; cases h
  · rw [he] at h ⊢
    cases h
    have h7 : 7 ≤ spanLength s.cfg x := by simp only [spanLength, packetLength]; omega
    have hsp := span_le_frame s.cfg x
    refine ⟨s.gHead + k + spanStart s.cfg, s.gHead + k + spanStart s.cfg + spanLength s.cfg x, by omega, by omega,
      by simp only []; omega, ?_⟩
    rw [List.drop_drop]
    congr 1
    · omega
    · congr 1
      omega

/-- `NEXT` in full (R266): latched, a packet at once, out of data, or one advance and one retry. -/
theorem iterate_spec (s : State) :
    (s.endLatch = true ∧ iterate s = (s, none)) ∨
    (s.endLatch = false ∧ (∃ d, (pull s).2 = some d) ∧ iterate s = pull s) ∨
    (s.endLatch = false ∧ (pull s).2 = none ∧ status (pull s).1 = .notEnoughBytesForHeader ∧
      iterate s = ({ (pull s).1 with endLatch := true }, none)) ∨
    (s.endLatch = false ∧ (pull s).2 = none ∧ status (pull s).1 = .notEnoughBytesForPacket ∧
      iterate s = ({ (pull (advance1 (pull s).1)).1 with
          endLatch := (pull (advance1 (pull s).1)).2.isNone }, (pull (advance1 (pull s).1)).2)) := by
  cases hl : s.endLatch with
  | true => left; simp [iterate, hl]
  | false =>
    right
    have hp : pull s = ((pull s).1, (pull s).2) := rfl
    cases hr : (pull s).2 with
    | some d =>
      left
      rw [hr] at hp
      refine ⟨rfl, ⟨d, rfl⟩, ?_⟩
      simp only [iterate, hl, Bool.false_eq_true, if_false, pullWithRetry]
      rw [hp]
    | none =>
      right
      rw [hr] at hp
      have hins := (insufficient_iff _).mp (pull_none_insufficient hp)
      rcases hins with hh | hh
      · left
        refine ⟨rfl, rfl, hh, ?_⟩
        simp only [iterate, hl, Bool.false_eq_true, if_false, pullWithRetry]
        rw [hp]
        simp [hh]
      · right
        refine ⟨rfl, rfl, hh, ?_⟩
        simp only [iterate, hl, Bool.false_eq_true, if_false, pullWithRetry]
        rw [hp]
        simp only [hh, reduceCtorEq, if_false]
        have hq : pull (advance1 (pull s).1) = ((pull (advance1 (pull s).1)).1, (pull (advance1 (pull s).1)).2) := rfl
        have hlat : (pull (advance1 (pull s).1)).1.endLatch = false := by
          rw [(pull_frame _).1]; simp [(pull_frame s).1, hl]
        generalize hgen : pull (advance1 (pull s).1) = q at hq hlat ⊢
        obtain ⟨u, o⟩ := q
        cases o with
        | none => rfl
        | some d =>
          simp only [Option.isNone_some] at hlat ⊢
          obtain ⟨_, _, _, _, _, _, _, _, _, _⟩ := u
          simp only at hlat
          subst hlat
          rfl

/-- The status at which `NEXT` retries has a byte to drop (R266). -/
theorem retry_has_bytes {s : State} (h : status s = .notEnoughBytesForPacket) : 6 ≤ s.buf.length :=
  le_trans (le_trans (by omega) (threshold1_ge s.par s.cfg))
    (threshold1_le_of_ne (V := Config.validate) (by rw [← status, h]; simp))

/-- `NEXT` leaves everything but the buffer, the counter, the head position and the latch, and removes only at the
head. -/
theorem iterate_frame (s : State) :
    (iterate s).1.cfg = s.cfg ∧ (iterate s).1.par = s.par ∧ (iterate s).1.cmds = s.cmds ∧
      (iterate s).1.gIn = s.gIn ∧ (iterate s).1.freeSeq = s.freeSeq ∧ (iterate s).1.resp = s.resp ∧
      s.skipped ≤ (iterate s).1.skipped ∧ (iterate s).1.skipped - s.skipped ≤ (iterate s).1.gHead - s.gHead ∧
      s.gHead ≤ (iterate s).1.gHead ∧ (iterate s).1.gHead ≤ s.gHead + s.buf.length ∧
      (iterate s).1.buf = s.buf.drop ((iterate s).1.gHead - s.gHead) := by
  have hf := pull_frame s
  rcases iterate_spec s with ⟨-, he⟩ | ⟨-, -, he⟩ | ⟨-, -, -, he⟩ | ⟨-, -, hst, he⟩ <;> rw [he]
  · simp
  · exact hf.2
  · exact hf.2
  · have hb := retry_has_bytes hst
    have hg := pull_frame (advance1 (pull s).1)
    simp only [advance1_cfg, advance1_par, advance1_cmds, advance1_gIn, advance1_freeSeq, advance1_resp,
      advance1_skipped, advance1_gHead, advance1_buf, List.length_drop] at hg
    have hlen : (pull s).1.buf.length = s.buf.length - ((pull s).1.gHead - s.gHead) := by
      rw [hf.2.2.2.2.2.2.2.2.2.2.2, List.length_drop]
    refine ⟨by rw [hg.2.1, hf.2.1], by rw [hg.2.2.1, hf.2.2.1], by rw [hg.2.2.2.1, hf.2.2.2.1],
      by rw [hg.2.2.2.2.1, hf.2.2.2.2.1], by rw [hg.2.2.2.2.2.1, hf.2.2.2.2.2.1],
      by rw [hg.2.2.2.2.2.2.1, hf.2.2.2.2.2.2.1], by simp only []; omega, by simp only []; omega,
      by simp only []; omega, by simp only []; omega, ?_⟩
    simp only []
    rw [hg.2.2.2.2.2.2.2.2.2.2.2, hf.2.2.2.2.2.2.2.2.2.2.2, List.drop_drop, List.drop_drop]
    congr 1
    omega

/-- The state with the interface's fields `resp` and `freeSeq` replaced. -/
def withInterface (r : Option Response) (k : Nat) (s : State) : State :=
  { s with resp := r, freeSeq := k }

theorem respond_eq_withInterface (r : Result) (s : State) :
    respond r s = withInterface (some (responseOf r s.freeSeq)) (s.freeSeq + 1) s := rfl

theorem resyncRounds_withInterface (r : Option Response) (k n : Nat) (s : State) :
    resyncRounds n (withInterface r k s) = withInterface r k (resyncRounds n s) := by
  induction n generalizing s with
  | zero => rfl
  | succ n ih =>
    have hs : status (withInterface r k s) = status s := rfl
    have ha : advance1 (withInterface r k s) = withInterface r k (advance1 s) := rfl
    by_cases hm : malformed (status s) = true <;> simp [resyncRounds, hs, hm, ha, ih]

theorem extract_withInterface (r : Option Response) (k : Nat) (h : Header) (s : State) :
    extract h (withInterface r k s) = (withInterface r k (extract h s).1, (extract h s).2) := by
  have e1 := extract_spec h s
  have e2 := extract_spec h (withInterface r k s)
  refine Prod.ext ?_ ?_
  · rw [e2.1, e1.1]; rfl
  · rw [e2.2, e1.2]; rfl

/-- `PULL_PACKET` neither reads nor writes the last response and the counter of free values. -/
theorem pull_withInterface (r : Option Response) (k : Nat) (s : State) :
    pull (withInterface r k s) = (withInterface r k (pull s).1, (pull s).2) := by
  have hr : resync (withInterface r k s) = withInterface r k (resync s) :=
    resyncRounds_withInterface r k s.buf.length s
  have hs : status (withInterface r k (resync s)) = status (resync s) := rfl
  have hh : headerAt (withInterface r k (resync s)).cfg (withInterface r k (resync s)).buf =
      headerAt (resync s).cfg (resync s).buf := rfl
  unfold pull
  simp only [hr, hs, hh, extract_withInterface]
  split
  · rfl
  · cases headerAt (resync s).cfg (resync s).buf <;> rfl

/-- Reception (R220, R71): appended and the latch cleared, or refused as a whole. -/
theorem receive_cases (d : List Byte) (s : State) :
    (withinCap s.par.bufCap (s.buf.length + d.length) = true ∧
      receive d s = respond okResult { bufAppend d s with endLatch := false }) ∨
    (withinCap s.par.bufCap (s.buf.length + d.length) = false ∧ receive d s = respondError .errFull s) := by
  cases h : withinCap s.par.bufCap (s.buf.length + d.length) <;> simp [receive, h]

end Sys2Proof.Machine
end

