-- ==== Sys2Proof/Laws/Exec.lean ====
section
/-! SUPPORT. Everything one operation can do to the framer, said once (spec/10_state.md R42,
spec/46_framer_extract.md R268). -/

namespace Sys2Proof.Machine

/-- The operations that can write the configuration (R42). -/
def writesConfig : List Op :=
  [.allowApid, .cfgAllowedApids, .cfgMaxPacketLength, .cfgMinPacketLength, .cfgSecondaryHeaderRequired,
    .cfgSyncBytes, .cfgKeepSync, .cfgNumHeaderBytes, .cfgKeepHeader, .cfgNumFooterBytes, .cfgKeepFooter,
    .cfgLittleEndianHeader, .cfgValidationCallback]

/-- The seven things an operation can do: answer alone, append, advance, pull, iterate, write the configuration,
reset. -/
inductive Effect (i : Instr) (s : State) : State → Prop where
  | answer (r : Result) (code : r.rc ∈ allowedCodes (instrOp i))
      (full : ∀ d, i = .recvBytes d ∨ i = .recvSlice d →
        withinCap s.par.bufCap (s.buf.length + d.length) = false)
      (still : instrOp i ∉ [.pullPacket, .next, .reset]) : Effect i s (respond r s)
  | append (d : List Byte) (op : i = .recvBytes d ∨ i = .recvSlice d)
      (fits : withinCap s.par.bufCap (s.buf.length + d.length) = true) :
      Effect i s (respond okResult { bufAppend d s with endLatch := false })
  | advance (op : i = .reject) (nonempty : s.buf ≠ []) : Effect i s (respond okResult (advance1 s))
  | pulled (op : i = .pullPacket) : Effect i s (respond (optDataResult (pull s).2) (pull s).1)
  | iterated (op : i = .next) : Effect i s (respond (optDataResult (iterate s).2) (iterate s).1)
  | write (c : ParserConfig) (op : instrOp i ∈ writesConfig)
      (legal : WellFormed s.par i = true → ConfigLegal s.par s.cfg → ConfigLegal s.par c) :
      Effect i s (writeCfg c s)
  | reset (op : i = .reset) : Effect i s (respond okResult (resetFramer s))

/-- Reception is an append or an answer alone. -/
theorem receive_effect {i : Instr} {d : List Byte} {s : State} (op : i = .recvBytes d ∨ i = .recvSlice d) :
    Effect i s (receive d s) := by
  rcases receive_cases d s with ⟨hw, he⟩ | ⟨hw, he⟩
  · rw [he]; exact .append d op hw
  · rw [he]
    refine .answer { rc := .errFull } ?_ ?_ ?_
    · rcases op with rfl | rfl <;> simp [allowedCodes, instrOp]
    · rintro d' (e | e) <;> rcases op with rfl | rfl <;> cases e <;> assumption
    · rcases op with rfl | rfl <;> simp [instrOp]

/-- A header that may be absent is answered `OK` or `NONE`. -/
theorem optHeaderResult_rc (h : Option Header) : (optHeaderResult h).rc ∈ [ResponseCode.ok, .none] := by
  cases h <;> simp

/-- A configuration write that leaves the five bounded fields alone keeps the configuration legal. -/
theorem ConfigLegal.of_same {P : Params} {c c' : ParserConfig} (h : ConfigLegal P c)
    (h1 : c'.maxPacketLength = c.maxPacketLength) (h2 : c'.minPacketLength = c.minPacketLength)
    (h3 : c'.numHeaderBytes = c.numHeaderBytes) (h4 : c'.numFooterBytes = c.numFooterBytes)
    (h5 : c'.syncBytes = c.syncBytes) : ConfigLegal P c' := by
  unfold ConfigLegal at *
  rwa [h1, h2, h3, h4, h5]

/-- Every operation completes (R268), with one of the seven effects. -/
theorem exec_effect (i : Instr) (s : State) : ∃ t, exec i s = .next t ∧ Effect i s t := by
  cases i with
  | recvBytes d => exact ⟨_, rfl, receive_effect (.inl rfl)⟩
  | recvSlice d => exact ⟨_, rfl, receive_effect (.inr rfl)⟩
  | decodeSlice data order => exact ⟨_, rfl, .answer _ (optHeaderResult_rc _) (by simp) (by simp [instrOp])⟩
  | setPacketLength hdr total => exact ⟨_, rfl, .answer _ (optHeaderResult_rc _) (by simp) (by simp [instrOp])⟩
  | currentHeader => exact ⟨_, rfl, .answer _ (optHeaderResult_rc _) (by simp) (by simp [instrOp])⟩
  | reject =>
    cases hb : s.buf with
    | nil => exact ⟨_, by simp only [exec, execReject, hb]; rfl, .answer { rc := .errEmpty } (by decide) (by simp) (by decide)⟩
    | cons b rest => exact ⟨_, by simp only [exec, execReject, hb]; rfl, .advance rfl (by simp [hb])⟩
  | pullPacket => exact ⟨_, rfl, .pulled rfl⟩
  | next => exact ⟨_, rfl, .iterated rfl⟩
  | reset => exact ⟨_, rfl, .reset rfl⟩
  | allowApid a =>
    exact ⟨_, rfl, .write _ (by simp [instrOp, writesConfig]) fun _ h => h.of_same rfl rfl rfl rfl rfl⟩
  | cfgMaxPacketLength m =>
    exact ⟨_, rfl, .write _ (by simp [instrOp, writesConfig]) fun w h => ⟨w, h.2⟩⟩
  | cfgMinPacketLength m =>
    exact ⟨_, rfl, .write _ (by simp [instrOp, writesConfig]) fun w h => ⟨h.1, w, h.2.2⟩⟩
  | cfgNumHeaderBytes p =>
    exact ⟨_, rfl, .write _ (by simp [instrOp, writesConfig]) fun w h => ⟨h.1, h.2.1, w, h.2.2.2⟩⟩
  | cfgNumFooterBytes f =>
    exact ⟨_, rfl, .write _ (by simp [instrOp, writesConfig]) fun w h => ⟨h.1, h.2.1, h.2.2.1, w, h.2.2.2.2⟩⟩
  | cfgSyncBytes y =>
    cases hw : withinCap s.par.syncMax y.length with
    | true =>
      exact ⟨_, by simp only [exec, execCfgSyncBytes, hw]; rfl, .write { s.cfg with syncBytes := y }
        (by simp [instrOp, writesConfig]) fun _ h => ⟨h.1, h.2.1, h.2.2.1, h.2.2.2.1, hw⟩⟩
    | false =>
      exact ⟨_, by simp only [exec, execCfgSyncBytes, hw]; rfl,
        .answer { rc := .errArg } (by simp [allowedCodes, instrOp]) (by simp) (by simp [instrOp])⟩
  | _ =>
    first
    | exact ⟨_, rfl, .answer _ (by simp [allowedCodes, instrOp]) (by simp) (by simp [instrOp])⟩
    | exact ⟨_, rfl, .write _ (by simp [instrOp, writesConfig]) fun _ h => h.of_same rfl rfl rfl rfl rfl⟩

/-- With no command waiting a step changes nothing (R78, log 3). -/
theorem step_idle {s : State} (h : s.cmds = []) : step s = .next s := by
  simp [step, takeCommand, h, idle]

/-- A step runs the operation that the next command decodes to (R105). -/
theorem step_of_decode_ok {s : State} {c : Command} {rest : List Command} {i : Instr} (h : s.cmds = c :: rest)
    (hd : decode s.par c = .ok i) : step s = exec i { s with cmds := rest } := by
  simp [step, takeCommand, h, hd]

/-- A step rejects the next command where it decodes to no operation (R106, U1). -/
theorem step_of_decode_error {s : State} {c : Command} {rest : List Command} {e : DecodeError} (h : s.cmds = c :: rest)
    (hd : decode s.par c = .error e) : step s = rejectCommand e { s with cmds := rest } := by
  simp [step, takeCommand, h, hd]

/-- A run starts with a step. -/
theorem run_succ (M : Host.Core) (n : Nat) {s t : M.State} (h : M.step s = .next t) :
    Host.Core.run M (n + 1) s = Host.Core.run M n t := by
  simp only [Host.Core.run, h]

end Sys2Proof.Machine
end

