-- ==== Sys2Proof/Laws/PerInstr.lean ====
section
/-! SUPPORT. The family EncodedOp, made per constructor of Instr: the encoder puts the row's own code on the command, and
that code names the row (spec/30_encoding.md R106, R110). -/

namespace Sys2Proof.Laws.EncodedOp

def Statement (i : Instr) : Prop :=
  (encode i).op = opCode (instrOp i) ∧ opOfCode (encode i).op = some (instrOp i)

theorem decode (data : Region) (order : ByteOrder) : Statement (.decode data order) := ⟨rfl, rfl⟩

theorem decodeSlice (data : List Byte) (order : ByteOrder) : Statement (.decodeSlice data order) := ⟨rfl, rfl⟩

theorem encode (hdr : Header) (order : ByteOrder) : Statement (.encode hdr order) := ⟨rfl, rfl⟩

theorem getVersion (hdr : Header) : Statement (.getVersion hdr) := ⟨rfl, rfl⟩

theorem getPacketType (hdr : Header) : Statement (.getPacketType hdr) := ⟨rfl, rfl⟩

theorem getSecHdrFlag (hdr : Header) : Statement (.getSecHdrFlag hdr) := ⟨rfl, rfl⟩

theorem getApid (hdr : Header) : Statement (.getApid hdr) := ⟨rfl, rfl⟩

theorem getSeqType (hdr : Header) : Statement (.getSeqType hdr) := ⟨rfl, rfl⟩

theorem getSeqCount (hdr : Header) : Statement (.getSeqCount hdr) := ⟨rfl, rfl⟩

theorem getLengthField (hdr : Header) : Statement (.getLengthField hdr) := ⟨rfl, rfl⟩

theorem packetLength (hdr : Header) : Statement (.packetLength hdr) := ⟨rfl, rfl⟩

theorem dataLength (hdr : Header) : Statement (.dataLength hdr) := ⟨rfl, rfl⟩

theorem setVersion (hdr : Header) (v : BitVec 3) : Statement (.setVersion hdr v) := ⟨rfl, rfl⟩

theorem setPacketType (hdr : Header) (v : BitVec 1) : Statement (.setPacketType hdr v) := ⟨rfl, rfl⟩

theorem setSecHdrFlag (hdr : Header) (v : BitVec 1) : Statement (.setSecHdrFlag hdr v) := ⟨rfl, rfl⟩

theorem setApid (hdr : Header) (v : Apid) : Statement (.setApid hdr v) := ⟨rfl, rfl⟩

theorem setSeqType (hdr : Header) (v : BitVec 2) : Statement (.setSeqType hdr v) := ⟨rfl, rfl⟩

theorem setSeqCount (hdr : Header) (v : BitVec 14) : Statement (.setSeqCount hdr v) := ⟨rfl, rfl⟩

theorem setLengthField (hdr : Header) (v : BitVec 16) : Statement (.setLengthField hdr v) := ⟨rfl, rfl⟩

theorem setPacketLength (hdr : Header) (total : Nat) : Statement (.setPacketLength hdr total) := ⟨rfl, rfl⟩

theorem recvBytes (data : List Byte) : Statement (.recvBytes data) := ⟨rfl, rfl⟩

theorem recvSlice (data : List Byte) : Statement (.recvSlice data) := ⟨rfl, rfl⟩

theorem allowApid (apid : Apid) : Statement (.allowApid apid) := ⟨rfl, rfl⟩

theorem currentHeader : Statement .currentHeader := ⟨rfl, rfl⟩

theorem currentStatus : Statement .currentStatus := ⟨rfl, rfl⟩

theorem reject : Statement .reject := ⟨rfl, rfl⟩

theorem pullPacket : Statement .pullPacket := ⟨rfl, rfl⟩

theorem next : Statement .next := ⟨rfl, rfl⟩

theorem getSkipped : Statement .getSkipped := ⟨rfl, rfl⟩

theorem cfgAllowedApids (set : Option ApidSet) : Statement (.cfgAllowedApids set) := by
  cases set <;> exact ⟨rfl, rfl⟩

theorem cfgMaxPacketLength (m : Option Nat) : Statement (.cfgMaxPacketLength m) := by
  cases m <;> exact ⟨rfl, rfl⟩

theorem cfgMinPacketLength (m : Option Nat) : Statement (.cfgMinPacketLength m) := by
  cases m <;> exact ⟨rfl, rfl⟩

theorem cfgSecondaryHeaderRequired (b : Bool) : Statement (.cfgSecondaryHeaderRequired b) := ⟨rfl, rfl⟩

theorem cfgSyncBytes (y : List Byte) : Statement (.cfgSyncBytes y) := ⟨rfl, rfl⟩

theorem cfgKeepSync (b : Bool) : Statement (.cfgKeepSync b) := ⟨rfl, rfl⟩

theorem cfgNumHeaderBytes (p : Nat) : Statement (.cfgNumHeaderBytes p) := ⟨rfl, rfl⟩

theorem cfgKeepHeader (b : Bool) : Statement (.cfgKeepHeader b) := ⟨rfl, rfl⟩

theorem cfgNumFooterBytes (f : Nat) : Statement (.cfgNumFooterBytes f) := ⟨rfl, rfl⟩

theorem cfgKeepFooter (b : Bool) : Statement (.cfgKeepFooter b) := ⟨rfl, rfl⟩

theorem cfgLittleEndianHeader (b : Bool) : Statement (.cfgLittleEndianHeader b) := ⟨rfl, rfl⟩

theorem cfgValidationCallback (present : Bool) : Statement (.cfgValidationCallback present) := ⟨rfl, rfl⟩

theorem cfgRead : Statement .cfgRead := ⟨rfl, rfl⟩

theorem reset : Statement .reset := ⟨rfl, rfl⟩

end Sys2Proof.Laws.EncodedOp
end

