-- ==== Sys2Proof/Machine/Text.lean ====
section
/-! DEFINITION. The textual notation of a sequence of operations (spec/30_encoding.md R112): one operation a line, its
mnemonic, its operands separated by commas, then `->` and the result where it has one. -/

namespace Sys2Proof.Machine

/-- A hexadecimal digit. -/
def hexDigit (n : Nat) : Char :=
  "0123456789ABCDEF".toList.getD n '0'

/-- A byte as two hexadecimal digits. -/
def byteText (b : Byte) : String :=
  String.ofList [hexDigit (b.toNat / 16), hexDigit (b.toNat % 16)]

/-- A byte sequence: the bytes in square brackets, separated by spaces. -/
def bytesText (d : List Byte) : String :=
  "[" ++ " ".intercalate (d.map byteText) ++ "]"

/-- A word as `0xWWWW`. -/
def wordText (w : Word) : String :=
  "0x" ++ byteText (w.extractLsb' 8 8) ++ byteText (w.extractLsb' 0 8)

/-- A header value. -/
def headerText (h : Header) : String :=
  "H(" ++ wordText h.w0 ++ ", " ++ wordText h.w1 ++ ", " ++ wordText h.w2 ++ ")"

/-- A byte order. -/
def orderText : ByteOrder → String
  | .be => "BE"
  | .le => "LE"

/-- A number, in decimal. -/
def numberText (n : Nat) : String := toString n

/-- A Boolean. -/
def boolText (b : Bool) : String :=
  if b then "true" else "false"

/-- An optional operand. -/
def optionText (o : Option String) : String :=
  match o with
  | none => "none"
  | some t => "some(" ++ t ++ ")"

/-- A set of APIDs, its members in rising order between braces. -/
def apidSetText (a : ApidSet) : String :=
  String.ofList [Char.ofNat 123] ++
    ", ".intercalate (((List.range 2048).filter fun i => a.getLsbD i).map numberText) ++
    String.ofList [Char.ofNat 125]

/-- The operands of an operation, in the order of R110. -/
def operandTexts (i : Instr) : List String :=
  match i with
  | .decode data order => [bytesText (regionBytes data), orderText order]
  | .decodeSlice data order => [bytesText data, orderText order]
  | .encode hdr order => [headerText hdr, orderText order]
  | .getVersion hdr => [headerText hdr]
  | .getPacketType hdr => [headerText hdr]
  | .getSecHdrFlag hdr => [headerText hdr]
  | .getApid hdr => [headerText hdr]
  | .getSeqType hdr => [headerText hdr]
  | .getSeqCount hdr => [headerText hdr]
  | .getLengthField hdr => [headerText hdr]
  | .packetLength hdr => [headerText hdr]
  | .dataLength hdr => [headerText hdr]
  | .setVersion hdr v => [headerText hdr, numberText v.toNat]
  | .setPacketType hdr v => [headerText hdr, numberText v.toNat]
  | .setSecHdrFlag hdr v => [headerText hdr, numberText v.toNat]
  | .setApid hdr v => [headerText hdr, numberText v.toNat]
  | .setSeqType hdr v => [headerText hdr, numberText v.toNat]
  | .setSeqCount hdr v => [headerText hdr, numberText v.toNat]
  | .setLengthField hdr v => [headerText hdr, numberText v.toNat]
  | .setPacketLength hdr total => [headerText hdr, numberText total]
  | .recvBytes data => [bytesText data]
  | .recvSlice data => [bytesText data]
  | .allowApid apid => [numberText apid.toNat]
  | .currentHeader => []
  | .currentStatus => []
  | .reject => []
  | .pullPacket => []
  | .next => []
  | .getSkipped => []
  | .cfgAllowedApids set => [optionText (set.map apidSetText)]
  | .cfgMaxPacketLength m => [optionText (m.map numberText)]
  | .cfgMinPacketLength m => [optionText (m.map numberText)]
  | .cfgSecondaryHeaderRequired b => [boolText b]
  | .cfgSyncBytes y => [bytesText y]
  | .cfgKeepSync b => [boolText b]
  | .cfgNumHeaderBytes p => [numberText p]
  | .cfgKeepHeader b => [boolText b]
  | .cfgNumFooterBytes f => [numberText f]
  | .cfgKeepFooter b => [boolText b]
  | .cfgLittleEndianHeader b => [boolText b]
  | .cfgValidationCallback present => [optionText (if present then some "VALIDATE" else none)]
  | .cfgRead => []
  | .reset => []

/-- An operation as written before its result. -/
def instrText (i : Instr) : String :=
  match operandTexts i with
  | [] => opMnemonic (instrOp i)
  | ts => opMnemonic (instrOp i) ++ " " ++ ", ".intercalate ts

/-- A status, in the source's spelling (R19, R103). -/
def statusText : Status → String
  | .notEnoughBytesForHeader => "NotEnoughBytesForHeader"
  | .syncNotFound => "SyncNotFound"
  | .exceedsMaxPacketLength => "ExceedsMaxPacketLength"
  | .belowMinPacketLength => "BelowMinPacketLength"
  | .notEnoughBytesForPacket => "NotEnoughBytesForPacket"
  | .invalidVersion => "InvalidVersion"
  | .secondaryHeaderInvalid => "SecondaryHeaderInvalid"
  | .validationFailed => "ValidationFailed"
  | .apidNotAllowed => "ApidNotAllowed"
  | .validPacket => "ValidPacket"

/-- A result, where the operation has one to show: an absent value, an `ERR_*` code (R104), or the field it drives. The
record of `CFG_READ` has no notation of its own in R112. -/
def resultText (r : Result) : Option String :=
  match r.rc with
  | .none => some "none"
  | .errEmpty => some "ERR_EMPTY"
  | .errFull => some "ERR_FULL"
  | .errIllegalOp => some "ERR_ILLEGAL_OP"
  | .errArg => some "ERR_ARG"
  | .ok => r.status.map statusText <|> r.hdr.map headerText <|> r.val.map numberText <|> r.data.map bytesText

/-- One line of the notation: the operation, and its result where it has one. -/
def lineText (i : Instr) (r : Result) : String :=
  match resultText r with
  | none => instrText i
  | some t => instrText i ++ " -> " ++ t

end Sys2Proof.Machine
end

