-- ==== Sys2Proof/Tests/Slice0.lean ====
section
/-! SUPPORT. The model's own tests: the checks of WellFormed, the decoding of every row from a written-out word, the
worked examples of spec/95_test_vectors.md and of the rules, and a witness for the hypotheses of every statement that has
some. -/

namespace Sys2Proof.Tests

open Sys2Proof.Machine

/-! ### Helpers -/

/-- The response to one operation. -/
def answer (i : Instr) (s : State) : Option Response :=
  match exec i s with
  | .next t => t.resp
  | .fault _ => none
  | .refused _ => none

/-- The state after one operation. -/
def after (i : Instr) (s : State) : State :=
  match exec i s with
  | .next t => t
  | .fault _ => s
  | .refused _ => s

/-- The reset state with these bytes buffered. -/
def buffered (d : List Byte) : State :=
  { State.reset with buf := d, gIn := d.length }

/-- A command with its operand wires at zero. -/
def cmd (code : BitVec 8) : Command := idleCommand code

/-- The 8 bytes of Scenario B. -/
def packetB : List Byte := [0x00, 0x03, 0xFF, 0xFF, 0x00, 0x01, 0xFF, 0xFF]

/-- The bytes of Scenario C. -/
def streamC : List Byte := [0x00, 0x01, 0xEB, 0x90] ++ packetB ++ [0x00, 0x00]

/-- Scenario C's state: the sync marker EB 90 and its stream. -/
def stateC : State :=
  { buffered streamC with cfg := { ParserConfig.reset with syncBytes := [0xEB, 0x90] } }

/-! ### Ill-formed operations are refused by WellFormed -/

theorem test_illFormed_setPacketLength :
    WellFormed Params.default (.setPacketLength ⟨0, 0, 0⟩ (2 ^ 32)) = false := by decide

theorem test_illFormed_cfgMaxPacketLength :
    WellFormed Params.default (.cfgMaxPacketLength (some (2 ^ 32))) = false := by decide

theorem test_illFormed_cfgMinPacketLength :
    WellFormed Params.default (.cfgMinPacketLength (some (2 ^ 32))) = false := by decide

theorem test_illFormed_cfgNumHeaderBytes :
    WellFormed Params.default (.cfgNumHeaderBytes (2 ^ 32)) = false := by decide

theorem test_illFormed_cfgNumFooterBytes :
    WellFormed Params.default (.cfgNumFooterBytes (2 ^ 32)) = false := by decide

/-! ### Decoding: the rows of R110 by their codes, written in bits -/

/-- Family `0x0_` (R106). -/
theorem test_decode_codec_rows :
    [0b00000000, 0b00000001, 0b00000010].map (decodeTableWord 8) =
      [some (.decode ⟨0, 0, 0, 0, 0, 0⟩ .be), some (.decodeSlice [0, 0, 0, 0, 0, 0] .be),
        some (.encode ⟨0, 0, 0⟩ .be)] := by decide

/-- Family `0x1_`. -/
theorem test_decode_accessor_rows :
    [0b00010000, 0b00010001, 0b00010010, 0b00010011, 0b00010100, 0b00010101, 0b00010110, 0b00010111,
        0b00011000].map (decodeTableWord 8) =
      [some (.getVersion ⟨0, 0, 0⟩), some (.getPacketType ⟨0, 0, 0⟩), some (.getSecHdrFlag ⟨0, 0, 0⟩),
        some (.getApid ⟨0, 0, 0⟩), some (.getSeqType ⟨0, 0, 0⟩), some (.getSeqCount ⟨0, 0, 0⟩),
        some (.getLengthField ⟨0, 0, 0⟩), some (.packetLength ⟨0, 0, 0⟩), some (.dataLength ⟨0, 0, 0⟩)] := by decide

/-- Family `0x2_`. -/
theorem test_decode_mutator_rows :
    [0b00100000, 0b00100001, 0b00100010, 0b00100011, 0b00100100, 0b00100101, 0b00100110, 0b00100111].map
        (decodeTableWord 8) =
      [some (.setVersion ⟨0, 0, 0⟩ 0), some (.setPacketType ⟨0, 0, 0⟩ 0), some (.setSecHdrFlag ⟨0, 0, 0⟩ 0),
        some (.setApid ⟨0, 0, 0⟩ 0), some (.setSeqType ⟨0, 0, 0⟩ 0), some (.setSeqCount ⟨0, 0, 0⟩ 0),
        some (.setLengthField ⟨0, 0, 0⟩ 0), some (.setPacketLength ⟨0, 0, 0⟩ 0)] := by decide

/-- Family `0x3_`. -/
theorem test_decode_framer_rows :
    [0b00110000, 0b00110001, 0b00110010, 0b00110011, 0b00110100, 0b00110101, 0b00110110, 0b00110111,
        0b00111000].map (decodeTableWord 8) =
      [some (.recvBytes [0, 0, 0, 0, 0, 0]), some (.recvSlice [0, 0, 0, 0, 0, 0]), some (.allowApid 0),
        some .currentHeader, some .currentStatus, some .reject, some .pullPacket, some .next,
        some .getSkipped] := by decide

/-- Family `0x4_`; the field number is the low four bits (R111). -/
theorem test_decode_config_rows :
    [0b01000000, 0b01000001, 0b01000010, 0b01000011, 0b01000100, 0b01000101, 0b01000110, 0b01000111, 0b01001000,
        0b01001001, 0b01001010, 0b01001011, 0b01001111].map (decodeTableWord 8) =
      [some (.cfgAllowedApids none), some (.cfgMaxPacketLength none), some (.cfgMinPacketLength none),
        some (.cfgSecondaryHeaderRequired false), some (.cfgSyncBytes [0, 0, 0, 0, 0, 0]), some (.cfgKeepSync false),
        some (.cfgNumHeaderBytes 0), some (.cfgKeepHeader false), some (.cfgNumFooterBytes 0),
        some (.cfgKeepFooter false), some (.cfgLittleEndianHeader false), some (.cfgValidationCallback false),
        some .cfgRead] := by decide

/-- `RESET`, and codes the table does not assign (R106, R111). -/
theorem test_decode_reset_and_unassigned :
    [0b01111111, 0b00000011, 0b00011001, 0b00101000, 0b00111001, 0b01001100, 0b01001110, 0b01010000,
        0b11111111].map (decodeTableWord 8) =
      [some .reset, none, none, none, none, none, none, none, none] := by decide

/-! ### Decoding: the operand wires of R105 -/

/-- `order` 1 is little-endian, the six bytes in stream order. -/
theorem test_decode_operands_decode :
    decode Params.default { cmd 0b00000000 with order := true, data := [1, 2, 3, 4, 5, 6] } =
      .ok (.decode ⟨1, 2, 3, 4, 5, 6⟩ .le) := by decide

/-- `hdr` carries `W[0]` in bits 47 to 32, `W[1]` in 31 to 16, `W[2]` in 15 to 0. -/
theorem test_decode_operands_setApid :
    decode Params.default { cmd 0b00100011 with hdr := 0x0864402A000B, val := 2047 } =
      .ok (.setApid ⟨0x0864, 0x402A, 0x000B⟩ 2047) := by decide

/-- The present bit of an optional value, and the absent value whatever `val` is. -/
theorem test_decode_operands_optional :
    decode Params.default { cmd 0b01000001 with present := true, val := 1024 } =
      .ok (.cfgMaxPacketLength (some 1024)) ∧
    decode Params.default { cmd 0b01000010 with val := 12 } = .ok (.cfgMinPacketLength none) := by decide

/-- The bitmap of `CFG_ALLOWED_APIDS`: bit `i` is APID `i`. -/
theorem test_decode_operands_set :
    (decode Params.default { cmd 0b01000000 with setPresent := true, set := 0b100000 } =
      .ok (.cfgAllowedApids (some 0b100000))) ∧
    apidIn 0b100000 5 = true ∧ apidIn 0b100000 4 = false := by decide +kernel

/-- A wire an operation does not use is ignored (R105). -/
theorem test_decode_ignores_unused_wires :
    decode Params.default { cmd 0b01001011 with present := true, hdr := 0xFFFFFFFFFFFF, data := [1] } =
      .ok (.cfgValidationCallback true) := by decide

/-- Operands no port carries (U1, R130). -/
theorem test_decode_rejects_unpresentable :
    decode Params.default { cmd 0b00110010 with val := 2048 } = .error (.operandNotPresentable 0b00110010) ∧
    decode Params.default { cmd 0b01000110 with val := 2 ^ 32 } = .error (.operandNotPresentable 0b01000110) ∧
    decode Params.default { cmd 0b00000000 with data := [1, 2, 3, 4, 5] } =
      .error (.operandNotPresentable 0b00000000) ∧
    decode Params.default (cmd 0b01001101) = .error (.unassignedOp 0b01001101) := by decide

/-- The table word placed in front of the state is the next one a step runs. -/
theorem test_withFetchWord_runs_getSkipped :
    step (State.reset.withFetchWord 8 0b00111000) = exec .getSkipped State.reset := by rfl

/-! ### The codec (spec/95_test_vectors.md sections 2 to 5) -/

theorem test_decode_be : decodeHeader ⟨0x35, 0xA2, 0x9C, 0x7E, 0x12, 0x34⟩ .be = ⟨0x35A2, 0x9C7E, 0x1234⟩ := by decide

theorem test_decode_le : decodeHeader ⟨0x35, 0xA2, 0x9C, 0x7E, 0x12, 0x34⟩ .le = ⟨0xA235, 0x7E9C, 0x3412⟩ := by decide

/-- R131's own examples. -/
theorem test_decodeSlice :
    decodeSlice [0x00, 0x03, 0xFF] .be = none ∧
    decodeSlice [0x00, 0x03, 0xFF, 0xFF, 0x00, 0x01, 0xAA, 0xBB] .be = some ⟨0x0003, 0xFFFF, 0x0001⟩ := by decide

/-- A short slice is answered `NONE` (R104). -/
theorem test_decodeSlice_none_code :
    (answer (.decodeSlice [1, 2, 3, 4, 5] .be) State.reset).map (·.rc) = some 1 := by decide

/-- R132's examples. -/
theorem test_encode_be_le :
    (answer (.encode ⟨0x0864, 0x402A, 0x000B⟩ .be) State.reset).map (·.data) =
      some [0x08, 0x64, 0x40, 0x2A, 0x00, 0x0B] ∧
    (answer (.encode ⟨0x0864, 0x402A, 0x000B⟩ .le) State.reset).map (·.data) =
      some [0x64, 0x08, 0x2A, 0x40, 0x0B, 0x00] := by decide

/-- The row of `[35 A2 9C 7E 12 34]` big-endian in section 2.1: all seven fields and both lengths. -/
theorem test_accessors :
    [Instr.getVersion ⟨0x35A2, 0x9C7E, 0x1234⟩, .getPacketType ⟨0x35A2, 0x9C7E, 0x1234⟩,
      .getSecHdrFlag ⟨0x35A2, 0x9C7E, 0x1234⟩, .getApid ⟨0x35A2, 0x9C7E, 0x1234⟩,
      .getSeqType ⟨0x35A2, 0x9C7E, 0x1234⟩, .getSeqCount ⟨0x35A2, 0x9C7E, 0x1234⟩,
      .getLengthField ⟨0x35A2, 0x9C7E, 0x1234⟩, .packetLength ⟨0x35A2, 0x9C7E, 0x1234⟩,
      .dataLength ⟨0x35A2, 0x9C7E, 0x1234⟩].map (fun i => (answer i State.reset).map (·.val)) =
      [some 1, some 1, some 0, some 1442, some 2, some 7294, some 4660, some 4667, some 4661] := by decide

/-- The row of `[08 64 40 2A 00 0B]` little-endian in section 2.1. -/
theorem test_accessors_other_row :
    [Instr.getVersion ⟨0x6408, 0x2A40, 0x0B00⟩, .getPacketType ⟨0x6408, 0x2A40, 0x0B00⟩,
      .getSecHdrFlag ⟨0x6408, 0x2A40, 0x0B00⟩, .getApid ⟨0x6408, 0x2A40, 0x0B00⟩,
      .getSeqType ⟨0x6408, 0x2A40, 0x0B00⟩, .getSeqCount ⟨0x6408, 0x2A40, 0x0B00⟩,
      .getLengthField ⟨0x6408, 0x2A40, 0x0B00⟩, .packetLength ⟨0x6408, 0x2A40, 0x0B00⟩,
      .dataLength ⟨0x6408, 0x2A40, 0x0B00⟩].map (fun i => (answer i State.reset).map (·.val)) =
      [some 3, some 0, some 0, some 1032, some 0, some 10816, some 2816, some 2823, some 2817] := by decide

/-- The greatest length field needs 17 bits (R180, R181). -/
theorem test_lengths_do_not_wrap :
    packetLength ⟨0, 0, 0xFFFF⟩ = 65542 ∧ dataLength ⟨0, 0, 0xFFFF⟩ = 65536 := by decide

/-- The examples of R161 to R167. -/
theorem test_mutators :
    [Instr.setVersion ⟨0x0864, 0x402A, 0x000B⟩ 5, .setPacketType ⟨0x0003, 0xFFFF, 0x0001⟩ 1,
      .setSecHdrFlag ⟨0x0003, 0xFFFF, 0x0001⟩ 1, .setApid ⟨0x0003, 0xFFFF, 0x0001⟩ 7,
      .setSeqType ⟨0x0864, 0x402A, 0x000B⟩ 3, .setSeqCount ⟨0x0864, 0x402A, 0x000B⟩ 16383,
      .setLengthField ⟨0x0003, 0xFFFF, 0x0001⟩ 65535].map (fun i => (answer i State.reset).map (·.hdr)) =
      [some 0xA864402A000B, some 0x1003FFFF0001, some 0x0803FFFF0001, some 0x0007FFFF0001, some 0x0864C02A000B,
        some 0x08647FFF000B, some 0x0003FFFFFFFF] := by decide

/-- The corner cases of R161 to R166: the field cleared in a word of ones. -/
theorem test_mutators_clear :
    [setVersion ⟨0xFFFF, 0xFFFF, 0xFFFF⟩ 0, setPacketType ⟨0xFFFF, 0xFFFF, 0xFFFF⟩ 0,
      setSecHdrFlag ⟨0xFFFF, 0xFFFF, 0xFFFF⟩ 0, setApid ⟨0xFFFF, 0xFFFF, 0xFFFF⟩ 0,
      setSeqType ⟨0xFFFF, 0xFFFF, 0xFFFF⟩ 0, setSeqCount ⟨0xFFFF, 0xFFFF, 0xFFFF⟩ 0] =
      [⟨0x1FFF, 0xFFFF, 0xFFFF⟩, ⟨0xEFFF, 0xFFFF, 0xFFFF⟩, ⟨0xF7FF, 0xFFFF, 0xFFFF⟩, ⟨0xF800, 0xFFFF, 0xFFFF⟩,
        ⟨0xFFFF, 0x3FFF, 0xFFFF⟩, ⟨0xFFFF, 0xC000, 0xFFFF⟩] := by decide

/-- R182's corner cases. -/
theorem test_setPacketLength :
    [6, 7, 65542, 65543].map (setPacketLength ⟨0x0003, 0xFFFF, 0x0001⟩) =
      [none, some ⟨0x0003, 0xFFFF, 0⟩, some ⟨0x0003, 0xFFFF, 0xFFFF⟩, none] := by decide

/-- R148: names, and integers that do not fit. -/
theorem test_names :
    [packetTypeOf 1, packetTypeOf 2] = [.command, .unknown] ∧ [secHdrFlagOf 1, secHdrFlagOf 2] = [.present, .unknown] ∧
    [seqFlagOf 0, seqFlagOf 1, seqFlagOf 2, seqFlagOf 3, seqFlagOf 4] =
      [.continuation, .firstSegment, .lastSegment, .unsegmented, .unknown] := by decide

/-! ### The ten statuses (R210) -/

/-- The status of these bytes under this configuration, with the predicate that accepts nothing. -/
def statusOf (c : ParserConfig) (d : List Byte) : Status :=
  statusWith (fun _ => false) Params.default c d

theorem test_status_1_2 :
    statusOf ParserConfig.reset [0, 0, 0] = .notEnoughBytesForHeader ∧
    statusOf stateC.cfg streamC = .syncNotFound := by decide

theorem test_status_3_4 :
    statusOf { ParserConfig.reset with maxPacketLength := some 7 } packetB = .exceedsMaxPacketLength ∧
    statusOf { ParserConfig.reset with maxPacketLength := some 8 } packetB = .validPacket ∧
    statusOf { ParserConfig.reset with minPacketLength := some 9 } packetB = .belowMinPacketLength ∧
    statusOf { ParserConfig.reset with minPacketLength := some 8 } packetB = .validPacket := by decide

theorem test_status_5_6 :
    statusOf ParserConfig.reset [0x00, 0x03, 0xFF, 0xFF, 0x00, 0x02, 0xFF, 0xFF] = .notEnoughBytesForPacket ∧
    statusOf ParserConfig.reset [0x20, 0x03, 0xFF, 0xFF, 0x00, 0x01, 0xFF, 0xFF] = .invalidVersion := by decide

theorem test_status_7_8 :
    statusOf { ParserConfig.reset with secondaryHeaderRequired := true } packetB = .secondaryHeaderInvalid ∧
    statusOf { ParserConfig.reset with validationCallback := true } packetB = .validationFailed := by decide

theorem test_status_9_10 :
    statusOf { ParserConfig.reset with allowedApids := some 0b100000 }
      [0x00, 0x07, 0xFF, 0xFF, 0x00, 0x01, 0xFF, 0xFF] = .apidNotAllowed ∧
    statusOf ParserConfig.reset packetB = .validPacket := by decide +kernel

/-- The predicate sees the whole frame, sync marker through footer, and nothing behind it (R203). -/
theorem test_status_predicate_span :
    statusWith (fun span => span == [0xEB, 0x90] ++ packetB ++ [0xAA]) Params.default
      { ParserConfig.reset with syncBytes := [0xEB, 0x90], numFooterBytes := 1, validationCallback := true }
      ([0xEB, 0x90] ++ packetB ++ [0xAA, 0x55]) = .validPacket := by decide

/-- The other reading of check 1 counts sync and prefix again (U15). -/
theorem test_status_other_threshold :
    statusWith (fun _ => true) { Params.default with t1Extra := .syncPrefixAgain } stateC.cfg
      ([0xEB, 0x90] ++ [0x00, 0x03, 0xFF, 0xFF, 0x00, 0x00, 0xFF]) = .notEnoughBytesForHeader ∧
    statusWith (fun _ => true) Params.default stateC.cfg
      ([0xEB, 0x90] ++ [0x00, 0x03, 0xFF, 0xFF, 0x00, 0x00, 0xFF]) = .validPacket := by decide

theorem test_currentStatus : (answer .currentStatus stateC).map (·.status) = some 2 := by decide

/-- R191's examples, and R236's little-endian header. -/
theorem test_currentHeader :
    (answer .currentHeader (buffered packetB)).map (·.hdr) = some 0x0003FFFF0001 ∧
    (answer .currentHeader (buffered [0, 0, 0])).map (·.rc) = some 1 ∧
    headerAt { ParserConfig.reset with littleEndianHeader := true } [0x03, 0x00, 0xFF, 0xFF, 0x01, 0x00, 0xFF, 0xFF] =
      some ⟨0x0003, 0xFFFF, 0x0001⟩ := by decide

/-! ### The framer (spec/95_test_vectors.md sections 1, 7 and 9) -/

/-- R220's example, and the latch cleared by an empty append (D12). -/
theorem test_recvBytes :
    (after (.recvBytes [1, 2]) (buffered [0, 0])).buf = [0, 0, 1, 2] ∧
    (after (.recvBytes []) { buffered [] with endLatch := true }).endLatch = false := by decide

/-- R221's example, and a finite buffer that is full (R71). -/
theorem test_recvSlice :
    (after (.recvSlice [0xEB, 0x90]) State.reset).buf = [0xEB, 0x90] ∧
    (answer (.recvSlice [3, 4]) { buffered [1, 2] with par := { Params.default with bufCap := some 3 } }).map (·.rc) =
      some 3 ∧
    (after (.recvSlice [3, 4]) { buffered [1, 2] with par := { Params.default with bufCap := some 3 } }).buf =
      [1, 2] := by decide

/-- R222's example. -/
theorem test_allowApid :
    (after (.allowApid 5) State.reset).cfg.allowedApids = some 0b100000 ∧
    (after (.allowApid 7) (after (.allowApid 5) State.reset)).cfg.allowedApids = some 0b10100000 := by decide +kernel

/-- R261's example. -/
theorem test_reject :
    (after .reject { buffered [0xAA, 0x00, 0x03] with skipped := 4, gHead := 4, gIn := 7 }).buf = [0x00, 0x03] ∧
    (after .reject { buffered [0xAA, 0x00, 0x03] with skipped := 4, gHead := 4, gIn := 7 }).skipped = 5 := by decide

/-- An empty buffer is answered `ERR_EMPTY` and counts nothing. -/
theorem test_reject_empty :
    (answer .reject State.reset).map (·.rc) = some 2 ∧ (after .reject State.reset).skipped = 0 := by decide

/-- Scenario C: two bytes discarded, the packet behind the sync marker returned. -/
theorem test_pullPacket_scenario_C :
    (answer .pullPacket stateC).map (·.data) = some packetB ∧ (after .pullPacket stateC).buf = [0x00, 0x00] ∧
    (after .pullPacket stateC).skipped = 2 := by decide

/-- Scenario D's companion: the footer dropped, not counted. -/
theorem test_pullPacket_footer_not_kept :
    (answer .pullPacket { buffered (packetB ++ [0xAA, 0xBB, 0x11]) with
      cfg := { ParserConfig.reset with numFooterBytes := 2 } }).map (·.data) = some packetB ∧
    (after .pullPacket { buffered (packetB ++ [0xAA, 0xBB, 0x11]) with
      cfg := { ParserConfig.reset with numFooterBytes := 2 } }).buf = [0x11] := by decide

/-- Scenario E's state. -/
def stateE : State :=
  { buffered [0x00, 0x07, 0xFF, 0xFF, 0x00, 0x01, 0xFF, 0xFF] with
    cfg := { ParserConfig.reset with allowedApids := some 0b100000 } }

/-- Scenario E with `NEXT`: two bytes dropped, the latch set. -/
theorem test_next_scenario_E :
    (answer .next stateE).map (·.rc) = some 1 ∧ (after .next stateE).buf = [0xFF, 0xFF, 0x00, 0x01, 0xFF, 0xFF] ∧
    (after .next stateE).skipped = 2 ∧ (after .next stateE).endLatch = true := by decide +kernel

/-- With the latch set nothing is looked at, not even a valid packet. -/
theorem test_next_latched :
    (answer .next { buffered packetB with endLatch := true }).map (·.rc) = some 1 ∧
    (after .next { buffered packetB with endLatch := true }).buf = packetB := by decide

/-- R223's example: after Scenario C the counter shows 2. -/
theorem test_getSkipped : (answer .getSkipped (after .pullPacket stateC)).map (·.val) = some 2 := by decide

/-! ### The configuration and reset -/

/-- Every write in its own field; read back by `CFG_READ`. -/
theorem test_cfg_writes :
    (answer .cfgRead (after (.cfgValidationCallback true) (after (.cfgLittleEndianHeader true)
      (after (.cfgKeepFooter true) (after (.cfgNumFooterBytes 2) (after (.cfgKeepHeader true)
      (after (.cfgNumHeaderBytes 4) (after (.cfgKeepSync true) (after (.cfgSyncBytes [0xEB, 0x90])
      (after (.cfgSecondaryHeaderRequired true) (after (.cfgMinPacketLength (some 12))
      (after (.cfgMaxPacketLength (some 1024)) (after (.cfgAllowedApids (some 0b100000))
      State.reset))))))))))))).map (·.cfg) =
      some ⟨some 0b100000, some 1024, some 12, true, [0xEB, 0x90], true, 4, true, 2, true, true, true⟩ := by decide +kernel

/-- A marker longer than `SYNC_MAX` is answered `ERR_ARG` (R230). -/
theorem test_cfgSyncBytes_too_long :
    (answer (.cfgSyncBytes [1, 2, 3]) { State.reset with par := { Params.default with syncMax := some 2 } }).map (·.rc) =
      some 5 := by decide

/-- R330's example. -/
theorem test_reset :
    (after .reset { stateC with skipped := 2, gHead := 2, endLatch := true }).buf = [] ∧
    (after .reset { stateC with skipped := 2, gHead := 2, endLatch := true }).skipped = 0 ∧
    (after .reset { stateC with skipped := 2, gHead := 2, endLatch := true }).cfg.syncBytes = [] := by decide

/-! ### The notation of R112 -/

theorem test_text_pullPacket :
    lineText .pullPacket (dataResult packetB) = "PULL_PACKET -> [00 03 FF FF 00 01 FF FF]" := by decide

theorem test_text_setVersion :
    lineText (.setVersion ⟨0x0864, 0x402A, 0x000B⟩ 5) (headerResult ⟨0xA864, 0x402A, 0x000B⟩) =
      "SET_VERSION H(0x0864, 0x402A, 0x000B), 5 -> H(0xA864, 0x402A, 0x000B)" := by decide

/-! ### Witnesses: concrete values that meet the hypotheses of each statement that has some -/

/-- A finite block: three bytes of buffer, an 8-bit counter, two bytes of sync marker. -/
def smallPar : Params :=
  { Params.default with bufCap := some 3, cntW := some 8, syncMax := some 2 }

theorem witness_DecodeSliceUsesTheFirstSixBytes : ([1, 2, 3, 4, 5] : List Byte).length < 6 := by decide

theorem witness_MutatorLaws : HeaderField.apid ≠ .version := by decide

/-- Both ends of each range. -/
theorem witness_SetPacketLengthRange :
    (6 < 7) ∧ (65542 < 65543) ∧ (7 ≤ 7 ∧ 7 ≤ 65542) ∧ (7 ≤ 65542 ∧ 65542 ≤ 65542) := by decide

/-- A field of each word. -/
theorem witness_RawWriteTouchesOneWord :
    HeaderField.apid ∈ [HeaderField.version, .packetType, .secHdrFlag, .apid] ∧
    HeaderField.seqCount ∈ [HeaderField.seqType, .seqCount] ∧ HeaderField.lengthField = .lengthField := by decide

theorem witness_CodecIgnoresTheFramer :
    instrOp (.setPacketLength ⟨0, 0, 0⟩ 7) ∈ codecOps ++ accessorOps ++ mutatorOps := by decide

/-- The buffer filled exactly. -/
theorem witness_ReceiveAppendsAndClearsTheLatch :
    ∃ (d : List Byte) (s : State), s.par = smallPar ∧ (∀ cap, s.par.bufCap = some cap → s.buf.length + d.length ≤ cap) ∧
      Instr.recvSlice d ∈ [Instr.recvBytes d, Instr.recvSlice d] :=
  ⟨[3], { buffered [1, 2] with par := smallPar }, rfl, by rintro _ ⟨⟩; decide, by simp⟩

/-- One byte too many. -/
theorem witness_ReceiveBeyondCapacityChangesNothing :
    ∃ (d : List Byte) (s : State) (cap : Nat), s.par.bufCap = some cap ∧ cap < s.buf.length + d.length :=
  ⟨[3, 4], { buffered [1, 2] with par := smallPar }, 3, rfl, by decide⟩

theorem witness_OnlyTheConcatenationMatters :
    ∃ (a b : List Byte) (s : State), s.par = smallPar ∧
      ∀ cap, s.par.bufCap = some cap → s.buf.length + (a.length + b.length) ≤ cap :=
  ⟨[2], [3], { buffered [1] with par := smallPar }, rfl, by rintro _ ⟨⟩; decide⟩

/-- The greatest value an 8-bit counter shows. -/
theorem witness_GetSkippedAnswersTheCounter :
    ∃ s : State, s.par.cntW = some 8 ∧ ∀ w, s.par.cntW = some w → s.skipped < 2 ^ w :=
  ⟨{ buffered [] with par := smallPar, skipped := 255, gHead := 255, gIn := 255 }, rfl, by rintro _ ⟨⟩; decide⟩

/-- One byte short, and just enough, behind a sync marker and a prefix. -/
theorem witness_CurrentHeaderReadsAtItsOffset :
    ∃ (c : ParserConfig) (before : List Byte) (b : Region), c.syncBytes = [0xEB] ∧ c.numHeaderBytes = 1 ∧
      (buffered [0xEB, 9, 1, 2, 3, 4, 5]).buf.length < c.syncBytes.length + c.numHeaderBytes + 6 ∧
      (buffered [0xEB, 9, 1, 2, 3, 4, 5, 6]).buf = before ++ ([b.b0, b.b1, b.b2, b.b3, b.b4, b.b5] ++ []) ∧
      before.length = c.syncBytes.length + c.numHeaderBytes :=
  ⟨{ ParserConfig.reset with syncBytes := [0xEB], numHeaderBytes := 1 }, [0xEB, 9], ⟨1, 2, 3, 4, 5, 6⟩, by decide⟩

/-- The conditions of checks 2 to 9 (R197 to R204), as StatusIsTheFirstCheckThatFires writes them, for a head without
sync marker and prefix whose header is `h`. -/
def checks (V : List Byte → Bool) (c : ParserConfig) (buf : List Byte) (h : Header) : List Bool :=
  let plen := h.w2.toNat + 7
  let t5 := c.syncBytes.length + c.numHeaderBytes + plen + c.numFooterBytes
  [decide (0 < c.syncBytes.length ∧ buf.take c.syncBytes.length ≠ c.syncBytes),
    (c.maxPacketLength.map fun m => decide (m < plen)).getD false,
    (c.minPacketLength.map fun m => decide (plen < m)).getD false,
    decide (buf.length < t5),
    decide (h.w0.toNat / 8192 ≠ 0),
    c.secondaryHeaderRequired && decide (h.w0.toNat / 2048 % 2 = 0),
    c.validationCallback && !V (buf.take t5),
    (c.allowedApids.map fun A => !A.getLsbD (h.w0.toNat % 2048)).getD false]

/-- For each of the nine clauses a head of which exactly its checks hold before it fails: the first that fires. -/
theorem witness_StatusIsTheFirstCheckThatFires :
    let h : Header := ⟨0x0003, 0xFFFF, 0x0001⟩
    let no : List Byte → Bool := fun _ => false
    let r := ParserConfig.reset
    packetB = [] ++ ([0x00, 0x03, 0xFF, 0xFF, 0x00, 0x01] ++ [0xFF, 0xFF]) ∧
    decodeHeader ⟨0x00, 0x03, 0xFF, 0xFF, 0x00, 0x01⟩ .be = h ∧
    (checks no { r with syncBytes := [1] } packetB h).findIdx id = 0 ∧
    (checks no { r with maxPacketLength := some 7 } packetB h).findIdx id = 1 ∧
    (checks no { r with minPacketLength := some 9 } packetB h).findIdx id = 2 ∧
    (checks no r (packetB.take 7) h).findIdx id = 3 ∧
    (checks no r packetB ⟨0x2003, 0xFFFF, 0x0001⟩).findIdx id = 4 ∧
    (checks no { r with secondaryHeaderRequired := true } packetB h).findIdx id = 5 ∧
    (checks no { r with validationCallback := true } packetB h).findIdx id = 6 ∧
    (checks no { r with allowedApids := some 0b100000 } packetB h).findIdx id = 7 ∧
    (checks no r packetB h).findIdx id = 8 := by decide +kernel

theorem witness_StatusIsStableUnderAppending :
    insufficient (statusOf ParserConfig.reset packetB) = false ∧
    statusOf ParserConfig.reset (packetB.take 7) = .notEnoughBytesForPacket := by decide

/-- A head for each of the clauses (a) to (d): the bounds of (b) behind a matching sync marker, one beyond each bound, with
not even one data byte buffered. -/
theorem witness_ConsequencesOfTheCheckOrder :
    (Params.default.t1Extra = .extra 0 ∧ (packetB.take 6).length = 6) ∧
    (let c := { stateC.cfg with maxPacketLength := some 7 }
     let buf := [0xEB, 0x90] ++ packetB.take 6
     buf.take c.syncBytes.length = c.syncBytes ∧ threshold1 Params.default c ≤ buf.length ∧
      headerAt c buf = some ⟨0x0003, 0xFFFF, 0x0001⟩ ∧ 7 < packetLength ⟨0x0003, 0xFFFF, 0x0001⟩) ∧
    (let c := { stateC.cfg with minPacketLength := some 9, maxPacketLength := some 8 }
     let buf := [0xEB, 0x90] ++ packetB.take 6
     buf.take c.syncBytes.length = c.syncBytes ∧ threshold1 Params.default c ≤ buf.length ∧
      headerAt c buf = some ⟨0x0003, 0xFFFF, 0x0001⟩ ∧ packetLength ⟨0x0003, 0xFFFF, 0x0001⟩ < 9 ∧
      packetLength ⟨0x0003, 0xFFFF, 0x0001⟩ ≤ 8) ∧
    6 ≤ (statusCode (statusOf ParserConfig.reset packetB)).toNat ∧
    statusWith (fun _ => true) Params.default
      { ParserConfig.reset with validationCallback := true, allowedApids := some 0b100000 } packetB = .apidNotAllowed ∧
    statusOf { ParserConfig.reset with minPacketLength := some 9, maxPacketLength := some 8 } packetB =
      .belowMinPacketLength ∧
    (threshold1 Params.default stateC.cfg ≤ streamC.length ∧
      streamC.take stateC.cfg.syncBytes.length ≠ stateC.cfg.syncBytes) := by decide +kernel

theorem witness_RejectDropsOneByte :
    State.reset.buf = [] ∧ ∃ (b : Byte) (rest : List Byte), (buffered packetB).buf = b :: rest :=
  ⟨rfl, _, _, rfl⟩

theorem witness_PullAdvancesOverAMalformedHead :
    malformed (status stateC) = true ∧ stateC.endLatch = false := by decide

theorem witness_PullExtractsTheFrame :
    status (buffered packetB) = .validPacket ∧
    headerAt (buffered packetB).cfg (buffered packetB).buf = some ⟨0x0003, 0xFFFF, 0x0001⟩ := by decide

/-- A frame with every part: sync marker EB, prefix 55 66, Scenario B's packet, footer AA. -/
def framed : State :=
  { buffered ([0xEB, 0x55, 0x66] ++ packetB ++ [0xAA, 0x11]) with
    cfg := { ParserConfig.reset with syncBytes := [0xEB], numHeaderBytes := 2, numFooterBytes := 1, keepSync := true } }

theorem witness_KeepFlagsSelectTheSpan :
    status framed = .validPacket ∧ headerAt framed.cfg framed.buf = some ⟨0x0003, 0xFFFF, 0x0001⟩ ∧
    framed.buf = [0xEB] ++ ([0x55, 0x66] ++ (packetB ++ ([0xAA] ++ [0x11]))) ∧
    ([0xEB] : List Byte).length = framed.cfg.syncBytes.length ∧
    ([0x55, 0x66] : List Byte).length = framed.cfg.numHeaderBytes ∧
    packetB.length = packetLength ⟨0x0003, 0xFFFF, 0x0001⟩ ∧
    ([0xAA] : List Byte).length = framed.cfg.numFooterBytes := by decide

/-- Both endings: a frame at position 2, and a wait at position 1. -/
theorem witness_PullStopsAtTheFirstPositionNotMalformed :
    statusWith Config.validate stateC.par stateC.cfg (stateC.buf.drop 2) = .validPacket ∧
    insufficient (statusWith Config.validate stateE.par stateE.cfg (stateE.buf.drop 1)) = true := by decide +kernel

theorem witness_ResynchronisationIsBounded :
    (answer .pullPacket stateE).map (·.rc) = some (responseCode .none) := by decide +kernel

theorem witness_ContradictoryBoundsRejectEverything :
    ∃ s : State, s.cfg.minPacketLength = some 9 ∧ s.cfg.maxPacketLength = some 8 ∧ 8 < 9 :=
  ⟨{ buffered packetB with cfg := { ParserConfig.reset with minPacketLength := some 9, maxPacketLength := some 8 } },
    rfl, rfl, by decide⟩

/-- Both operations return a packet somewhere. -/
theorem witness_PacketsLeaveInStreamOrder :
    Instr.next ∈ [Instr.pullPacket, Instr.next] ∧
    (answer .pullPacket stateC).map (·.rc) = some (responseCode .ok) ∧
    (answer .next stateC).map (·.rc) = some (responseCode .ok) := by decide

theorem witness_NextWithTheLatchSet : ({ buffered packetB with endLatch := true } : State).endLatch = true := rfl

theorem witness_NextReturnsWhatPullReturns :
    ∃ (t : State) (r : Response), stateC.endLatch = false ∧ exec .pullPacket stateC = .next t ∧ t.resp = some r ∧
      r.rc = responseCode .ok :=
  ⟨_, _, rfl, rfl, rfl, by decide⟩

theorem witness_NextOutOfData :
    ∃ (t : State) (r : Response), (buffered [1, 2]).endLatch = false ∧ exec .pullPacket (buffered [1, 2]) = .next t ∧
      t.resp = some r ∧ r.rc = responseCode .none ∧ status t = .notEnoughBytesForHeader :=
  ⟨_, _, rfl, rfl, rfl, by decide, by decide⟩

theorem witness_NextRetriesOnce :
    ∃ (t : State) (r : Response), (buffered (packetB.take 7)).endLatch = false ∧
      exec .pullPacket (buffered (packetB.take 7)) = .next t ∧ t.resp = some r ∧ r.rc = responseCode .none ∧
      status t ≠ .notEnoughBytesForHeader :=
  ⟨_, _, rfl, rfl, rfl, by decide, by decide⟩

/-- A `NEXT` with a packet and one without. -/
theorem witness_NextMakesProgress :
    (answer .next stateC).map (·.rc) = some (responseCode .ok) ∧
    (answer .next (buffered [1, 2])).map (·.rc) = some (responseCode .none) := by decide

theorem witness_DrainingWithNextEnds :
    ({ buffered packetB with cmds := List.replicate 2 (encode .next) } : State).cmds =
      List.replicate 2 (encode .next) ∧ (buffered packetB).buf.length < 7 * 2 := ⟨rfl, by decide⟩

/-- A marker of the greatest length, and one byte more. -/
theorem witness_SyncMarkerWithinItsLimit :
    ∃ s : State, s.par.syncMax = some 2 ∧
      (∀ m, s.par.syncMax = some m → ([0xEB, 0x90] : List Byte).length ≤ m) ∧ 2 < ([1, 2, 3] : List Byte).length :=
  ⟨{ State.reset with par := smallPar }, rfl, by rintro _ ⟨⟩; decide, by decide⟩

theorem witness_PseudoOperationsExpand :
    stateE.cfg.allowedApids = some 0b100000 ∧ State.reset.cfg.allowedApids = none ∧ 7 ≤ 7 ∧ 65542 ≤ 65542 :=
  ⟨rfl, rfl, by decide, by decide⟩

/-- An operation that leaves the latch, and one that sets it. -/
theorem witness_OnlyNextReceiveAndResetTouchTheLatch :
    instrOp .pullPacket ∉ [Op.next, .recvBytes, .recvSlice, .reset] ∧ stateE.endLatch = false ∧
    (∃ t, exec .next stateE = .next t) ∧ (after .next stateE).endLatch = true :=
  ⟨by decide, rfl, ⟨(respond (optDataResult (iterate stateE).2) (iterate stateE).1), rfl⟩, by decide +kernel⟩

theorem witness_SkippedNeverDecreases :
    instrOp .currentStatus ∉ [Op.reject, .pullPacket, .next, .reset] ∧ Instr.next ≠ .reset ∧
    ∃ t, exec .next stateC = .next t :=
  ⟨by decide, by decide, _, rfl⟩

theorem witness_OnlyConfigurationWritesChangeTheConfiguration :
    instrOp .next ∉ [Op.allowApid, .reset, .cfgAllowedApids, .cfgMaxPacketLength, .cfgMinPacketLength,
      .cfgSecondaryHeaderRequired, .cfgSyncBytes, .cfgKeepSync, .cfgNumHeaderBytes, .cfgKeepHeader,
      .cfgNumFooterBytes, .cfgKeepFooter, .cfgLittleEndianHeader, .cfgValidationCallback] ∧
    ∃ t, exec .next stateC = .next t :=
  ⟨by decide, _, rfl⟩

/-- One operation of each of the four clauses. -/
theorem witness_BufferChangesOnlyAtItsEnds :
    instrOp .cfgRead ∉ [Op.recvBytes, .recvSlice, .reject, .pullPacket, .next, .reset] ∧
    instrOp (.recvBytes packetB) ∈ [Op.recvBytes, .recvSlice] ∧ instrOp .next ∈ [Op.reject, .pullPacket, .next] ∧
    instrOp .reset = Op.reset ∧ (∃ t, exec .cfgRead stateC = .next t) ∧
    (∃ t, exec (.recvBytes packetB) stateC = .next t) ∧ (∃ t, exec .next stateC = .next t) ∧
    ∃ t, exec .reset stateC = .next t :=
  ⟨by decide, by decide, by decide, rfl, ⟨_, rfl⟩, ⟨_, rfl⟩, ⟨_, rfl⟩, _, rfl⟩

theorem witness_ParametersAreFixed : ∃ t, exec .reset stateC = .next t := ⟨_, rfl⟩

theorem witness_NothingIsLostButFromTheHead :
    ∃ t, State.reset.par.bufCap = none ∧ Instr.reset ∉ [Instr.recvBytes packetB, .reject, .pullPacket] ∧
      execAll [.recvBytes packetB, .reject, .pullPacket] State.reset = .next t :=
  ⟨_, rfl, by decide, rfl⟩

theorem witness_StepRunsTheDecodedOperation :
    ({ State.reset with cmds := [cmd 0b00110111] } : State).cmds = cmd 0b00110111 :: [] ∧
    decode State.reset.par (cmd 0b00110111) = .ok .next := ⟨rfl, by decide⟩

theorem witness_UnassignedCodeIsAnswered :
    ({ State.reset with cmds := [cmd 0x4C] } : State).cmds = cmd 0x4C :: [] ∧
    (cmd 0x4C).op.toNat ∉ [0x00, 0x01, 0x02, 0x10, 0x11, 0x12, 0x13, 0x14, 0x15, 0x16, 0x17, 0x18, 0x20, 0x21, 0x22,
      0x23, 0x24, 0x25, 0x26, 0x27, 0x30, 0x31, 0x32, 0x33, 0x34, 0x35, 0x36, 0x37, 0x38, 0x40, 0x41, 0x42, 0x43, 0x44,
      0x45, 0x46, 0x47, 0x48, 0x49, 0x4A, 0x4B, 0x4F, 0x7F] := ⟨rfl, by decide⟩

/-- What a step does with one waiting command, from the reset state: `true` where it refuses the command by its name. -/
def refuses (c : Command) : Bool :=
  match step { State.reset with cmds := [c] } with
  | .next _ => false
  | .fault _ => false
  | .refused e => decide (e = .operandNotPresentable c.op)

/-- For each condition of NotPresentable the least value it holds of; data one byte short and one too long. -/
def refusedCommands : List Command :=
  [{ cmd 0x00 with data := [1, 2, 3, 4, 5] }, { cmd 0x00 with data := [1, 2, 3, 4, 5, 6, 7] },
    { cmd 0x20 with val := 8 }, { cmd 0x21 with val := 2 }, { cmd 0x22 with val := 2 }, { cmd 0x23 with val := 2048 },
    { cmd 0x24 with val := 4 }, { cmd 0x25 with val := 16384 }, { cmd 0x26 with val := 65536 },
    { cmd 0x32 with val := 2048 }, { cmd 0x43 with val := 2 }, { cmd 0x45 with val := 2 },
    { cmd 0x47 with val := 2 }, { cmd 0x49 with val := 2 }, { cmd 0x4A with val := 2 }] ++
  [{ cmd 0x27 with val := 4294967296 }, { cmd 0x46 with val := 4294967296 }, { cmd 0x48 with val := 4294967296 },
    { cmd 0x41 with val := 4294967296, present := true }, { cmd 0x42 with val := 4294967296, present := true }]

/-- The greatest value each port carries, an absent bound whatever its value, and a code of no row. -/
def presentableCommands : List Command :=
  [{ cmd 0x00 with data := [1, 2, 3, 4, 5, 6] }, { cmd 0x20 with val := 7 }, { cmd 0x21 with val := 1 },
    { cmd 0x22 with val := 1 }, { cmd 0x23 with val := 2047 }, { cmd 0x24 with val := 3 },
    { cmd 0x25 with val := 16383 }, { cmd 0x26 with val := 65535 }, { cmd 0x32 with val := 2047 },
    { cmd 0x43 with val := 1 }, { cmd 0x45 with val := 1 }, { cmd 0x47 with val := 1 }, { cmd 0x49 with val := 1 },
    { cmd 0x4A with val := 1 }] ++
  [{ cmd 0x27 with val := 4294967295 }, { cmd 0x46 with val := 4294967295 }, { cmd 0x48 with val := 4294967295 },
    { cmd 0x41 with val := 4294967295, present := true }, { cmd 0x42 with val := 4294967296 },
    { cmd 0x4C with val := 4294967296 }]

/-- The refusing side, and that the step does refuse there. -/
theorem witness_StepStopsOnlyOnUnpresentableOperands_refused :
    (∀ c ∈ refusedCommands, NotPresentable State.reset.par c) ∧ refusedCommands.all refuses = true := by
  unfold NotPresentable
  decide +kernel

/-- The other side, and no command waiting. -/
theorem witness_StepStopsOnlyOnUnpresentableOperands_next :
    (∀ c ∈ presentableCommands, ¬NotPresentable State.reset.par c) ∧ presentableCommands.any refuses = false ∧
      State.reset.cmds = [] := by
  unfold NotPresentable
  decide +kernel

/-- Commands that differ only in wires their row does not use: an absent bound's value; data, order and value beside a
header. -/
theorem witness_StepStopsOnlyOnUnpresentableOperands_unused :
    (let c := { cmd 0x41 with val := 1 }
     let d := { cmd 0x41 with val := 2, hdr := 3, order := true, data := [4] }
     c ≠ d ∧ c.op = d.op ∧ c.present = d.present ∧ (c.present = true → c.val = d.val) ∧
      decode Params.default c = decode Params.default d) ∧
    (let c := { cmd 0x13 with hdr := 5 }
     let d := { cmd 0x13 with hdr := 5, val := 4096, order := true, data := [4], present := true }
     c ≠ d ∧ c.op = d.op ∧ c.hdr = d.hdr ∧ decode Params.default c = decode Params.default d) := by decide +kernel

/-- The greatest value of `LEN_W` bits. -/
theorem witness_DecodeOfEncode :
    WellFormed Params.default (.cfgMaxPacketLength (some (2 ^ 32 - 1))) = true := by decide

theorem witness_DecodedOperationsAreWellFormed :
    decode Params.default { cmd 0b00100111 with hdr := 0x0864402A000B, val := 2 ^ 32 - 1 } =
      .ok (.setPacketLength ⟨0x0864, 0x402A, 0x000B⟩ (2 ^ 32 - 1)) := by decide

/-- A state that the invariant holds in and that is not the reset state, and a step from it. -/
theorem witness_EveryStepKeepsTheInvariant :
    ∃ t, Inv { stateC with cmds := [cmd 0b00110110] } ∧ step { stateC with cmds := [cmd 0b00110110] } = .next t :=
  ⟨_, ⟨rfl, by decide, rfl, by decide, by decide, by decide, by decide, by decide⟩, rfl⟩

end Sys2Proof.Tests
end

section
/-! SUPPORT. What every operation does to the buffer and the ghost counters, said once as a flow of bytes: in at the
tail, out at the head (spec/10_state.md R24 to R27, R44). -/

namespace Sys2Proof.Machine

/-- From `s` to `t` the bytes `fed` entered the buffer at its tail, bytes left only from its head, and the ghost counters
count both (R24, R26). -/
structure Flow (fed : List Byte) (s t : State) : Prop where
  gHead_le : s.gHead ≤ t.gHead
  gHead_bound : t.gHead ≤ s.gHead + (s.buf ++ fed).length
  gIn_eq : t.gIn = s.gIn + fed.length
  buf_eq : t.buf = (s.buf ++ fed).drop (t.gHead - s.gHead)

namespace Flow

/-- Nothing enters or leaves where buffer and ghost counters stand. -/
theorem of_same {s t : State} (hbuf : t.buf = s.buf) (hin : t.gIn = s.gIn) (hhead : t.gHead = s.gHead) :
    Flow [] s t :=
  ⟨by omega, by omega, hin, by simp [hbuf, hhead]⟩

theorem respond {fed : List Byte} {s t : State} (h : Flow fed s t) (r : Result) : Flow fed s (respond r t) :=
  ⟨h.gHead_le, h.gHead_bound, h.gIn_eq, h.buf_eq⟩

/-- Flows follow one another: what is fed later enters behind what was fed before. -/
theorem trans {a b : List Byte} {s t u : State} (h : Flow a s t) (k : Flow b t u) : Flow (a ++ b) s u := by
  obtain ⟨hle, hbound, hin, hbuf⟩ := h
  obtain ⟨kle, kbound, kin, kbuf⟩ := k
  have hlen : t.buf.length = (s.buf ++ a).length - (t.gHead - s.gHead) := by rw [hbuf, List.length_drop]
  simp only [List.length_append] at hbound kbound hlen
  refine ⟨by omega, by simp only [List.length_append]; omega, by simp only [List.length_append]; omega, ?_⟩
  rw [kbuf, hbuf, ← List.drop_append_of_le_length (by simp only [List.length_append]; omega), List.drop_drop,
    List.append_assoc]
  congr 1
  omega

/-- The bytes buffered are those fed less those removed. -/
theorem length_buf {fed : List Byte} {s t : State} (h : Flow fed s t) :
    t.buf.length + t.gHead = s.buf.length + s.gHead + fed.length := by
  obtain ⟨hle, hbound, -, hbuf⟩ := h
  rw [hbuf, List.length_drop]
  simp only [List.length_append] at hbound ⊢
  omega

end Flow

theorem bufAppend_flow (d : List Byte) (s : State) : Flow d s (bufAppend d s) :=
  ⟨le_rfl, Nat.le_add_right _ _, rfl, by simp⟩

theorem advance1_flow {s : State} (h : s.buf ≠ []) : Flow [] s (advance1 s) := by
  have := List.length_pos_iff.mpr h
  exact ⟨by simp, by simp; omega, rfl, by simp⟩

theorem pull_flow (s : State) : Flow [] s (pull s).1 := by
  obtain ⟨-, -, -, -, hin, -, -, -, -, hle, hbound, hbuf⟩ := pull_frame s
  exact ⟨hle, by simpa using hbound, hin, by simpa using hbuf⟩

theorem iterate_flow (s : State) : Flow [] s (iterate s).1 := by
  obtain ⟨-, -, -, hin, -, -, -, -, hle, hbound, hbuf⟩ := iterate_frame s
  exact ⟨hle, by simpa using hbound, hin, by simpa using hbuf⟩

/-- The bytes an operation adds to the buffer: what it feeds, all of it or, beyond `BUF_CAP`, none (R71). -/
def accepted (i : Instr) (s : State) : List Byte :=
  if withinCap s.par.bufCap (s.buf.length + (fedBytes [i]).length) then fedBytes [i] else []

/-- An operation other than `RECV_*` feeds nothing. -/
theorem fedBytes_of_not_receive {i : Instr} (h : instrOp i ∉ [.recvBytes, .recvSlice]) : fedBytes [i] = [] := by
  cases i
  case recvBytes => simp [instrOp] at h
  case recvSlice => simp [instrOp] at h
  all_goals rfl

theorem fedBytes_of_receive {i : Instr} {d : List Byte} (h : i = .recvBytes d ∨ i = .recvSlice d) :
    fedBytes [i] = d := by
  rcases h with rfl | rfl <;> simp [fedBytes]

/-- What a list of operations feeds starts with what its first operation feeds. -/
theorem fedBytes_cons (i : Instr) (rest : List Instr) : fedBytes (i :: rest) = fedBytes [i] ++ fedBytes rest := by
  cases i
  case recvBytes => simp [fedBytes]
  case recvSlice => simp [fedBytes]
  all_goals rfl

theorem accepted_of_not_receive {i : Instr} (s : State) (h : instrOp i ∉ [.recvBytes, .recvSlice]) :
    accepted i s = [] := by
  simp [accepted, fedBytes_of_not_receive h]

theorem accepted_of_unbounded {s : State} (i : Instr) (h : s.par.bufCap = none) : accepted i s = fedBytes [i] := by
  simp [accepted, h, withinCap]

/-- What an operation adds fits the capacity, if the buffer was within it. -/
theorem accepted_fits (i : Instr) {s : State} (h : Memory.wf s.par s.buf = true) :
    withinCap s.par.bufCap (s.buf.length + (accepted i s).length) = true := by
  unfold accepted
  split
  · assumption
  · exact h

/-- A `RECV_*` is an operation of its row, with its data. -/
theorem receive_of_op {i : Instr} (h : instrOp i ∈ [.recvBytes, .recvSlice]) :
    ∃ d, i = .recvBytes d ∨ i = .recvSlice d := by
  cases i
  case recvBytes d => exact ⟨d, .inl rfl⟩
  case recvSlice d => exact ⟨d, .inr rfl⟩
  all_goals simp [instrOp] at h

theorem exec_next_effect {i : Instr} {s t : State} (h : exec i s = .next t) : Effect i s t := by
  obtain ⟨u, hu, he⟩ := exec_effect i s
  rw [hu] at h
  cases h
  exact he

/-- The reset configuration is legal: no bounds, no marker, zero bytes (R45). -/
theorem reset_configLegal (P : Params) : ConfigLegal P ParserConfig.reset := by
  have hlen : lenFits P 0 = true := by simp [lenFits]
  exact ⟨rfl, rfl, hlen, hlen, (withinCap_iff _ _).mpr fun _ _ => Nat.zero_le _⟩

namespace Effect

variable {i : Instr} {s t : State}

theorem par_eq (h : Effect i s t) : t.par = s.par := by
  obtain ⟨-, -, hpull, -⟩ := pull_frame s
  obtain ⟨-, hiter, -⟩ := iterate_frame s
  cases h with
  | pulled => exact hpull
  | iterated => exact hiter
  | _ => rfl

/-- Every operation but `RESET` lets bytes in at the tail and out at the head only (R26, R61). -/
theorem flow (h : Effect i s t) (hr : i ≠ .reset) : Flow (accepted i s) s t := by
  cases h with
  | answer r _ full _ =>
    have hnone : accepted i s = [] := by
      by_cases hop : instrOp i ∈ [.recvBytes, .recvSlice]
      · obtain ⟨d, hd⟩ := receive_of_op hop
        simp [accepted, fedBytes_of_receive hd, full d hd]
      · exact accepted_of_not_receive s hop
    rw [hnone]
    exact .of_same rfl rfl rfl
  | append d op fits =>
    have hd : accepted i s = d := by simp [accepted, fedBytes_of_receive op, fits]
    rw [hd]
    obtain ⟨hle, hbound, hin, hbuf⟩ := bufAppend_flow d s
    exact ⟨hle, hbound, hin, hbuf⟩
  | advance op nonempty =>
    rw [accepted_of_not_receive s (by simp [op, instrOp])]
    exact (advance1_flow nonempty).respond _
  | pulled op =>
    rw [accepted_of_not_receive s (by simp [op, instrOp])]
    exact (pull_flow s).respond _
  | iterated op =>
    rw [accepted_of_not_receive s (by simp [op, instrOp])]
    exact (iterate_flow s).respond _
  | write c op _ =>
    have hop : instrOp i ∉ [.recvBytes, .recvSlice] := by
      intro hrecv
      obtain ⟨d, rfl | rfl⟩ := receive_of_op hrecv <;> simp [instrOp, writesConfig] at op
    rw [accepted_of_not_receive s hop]
    exact .of_same rfl rfl rfl
  | reset op => exact absurd op hr

/-- Only `REJECT`, `PULL_PACKET` and `NEXT` remove bytes, and `RESET` restarts the count (R61). -/
theorem gHead_eq (h : Effect i s t) (hop : instrOp i ∉ [.reject, .pullPacket, .next, .reset]) :
    t.gHead = s.gHead := by
  cases h with
  | answer | append | write => rfl
  | advance op | pulled op | iterated op | reset op => subst op; simp [instrOp] at hop

/-- Every byte counted as skipped is one that left at the head (R27). -/
theorem skipped_le (h : Effect i s t) (hr : i ≠ .reset) : t.skipped + s.gHead ≤ s.skipped + t.gHead := by
  cases h with
  | answer | append | write => exact le_rfl
  | advance => simp only [respond_skipped, advance1_skipped, respond_gHead, advance1_gHead]; omega
  | pulled =>
    obtain ⟨-, -, -, -, -, -, -, -, hcount, hle, -, -⟩ := pull_frame s
    simp only [respond_skipped, respond_gHead]
    omega
  | iterated =>
    obtain ⟨-, -, -, -, -, -, -, hcount, hle, -, -⟩ := iterate_frame s
    simp only [respond_skipped, respond_gHead]
    omega
  | reset op => exact absurd op hr

/-- An operation that the interface can present keeps the configured values within their fields (R31, R32, R34, R36,
R38). -/
theorem configLegal (h : Effect i s t) (hwf : WellFormed s.par i = true) (hc : ConfigLegal s.par s.cfg) :
    ConfigLegal s.par t.cfg := by
  obtain ⟨-, hpull, -⟩ := pull_frame s
  obtain ⟨hiter, -⟩ := iterate_frame s
  cases h with
  | answer | append | advance => exact hc
  | pulled => rwa [respond_cfg, hpull]
  | iterated => rwa [respond_cfg, hiter]
  | write c _ legal => exact legal hwf hc
  | reset => exact reset_configLegal s.par

/-- `RESET` leaves an empty buffer, with nothing counted (R330). -/
theorem of_reset (h : Effect .reset s t) : t.buf = [] ∧ t.skipped = 0 ∧ t.gIn = 0 ∧ t.gHead = 0 := by
  cases h with
  | answer _ _ _ still => simp [instrOp] at still
  | append _ op => simp at op
  | advance op | pulled op | iterated op => cases op
  | write _ op => simp [instrOp, writesConfig] at op
  | reset => exact ⟨rfl, rfl, rfl, rfl⟩

end Effect

end Sys2Proof.Machine
end

section
/-! SUPPORT. The invariant is kept by every operation, and so by every step (spec/10_state.md R44). -/

namespace Sys2Proof.Machine

/-- The invariant speaks of the framer and the parameters alone. -/
theorem Inv.of_sameFramer {s t : State} (h : Inv s) (hf : SameFramer s t) (hp : t.par = s.par) : Inv t := by
  obtain ⟨hlen, hskip, hbuf, hcfg⟩ := h
  obtain ⟨fbuf, fskip, -, fcfg, fin, fhead⟩ := hf
  exact ⟨by rw [fbuf, fhead, fin, hlen], by rw [fskip, fhead]; exact hskip, by rwa [hp, fbuf], by rwa [hp, fcfg]⟩

/-- A well-formed operation keeps the invariant: `RESET` by its values, every other operation by its flow of bytes, with
`skipped_le` for the counter and `accepted_fits` for the capacity. -/
theorem Effect.inv {i : Instr} {s t : State} (h : Effect i s t) (hwf : WellFormed s.par i = true) (hs : Inv s) :
    Inv t := by
  have hcfg : ConfigLegal t.par t.cfg := by rw [h.par_eq]; exact h.configLegal hwf hs.config_legal
  by_cases hr : i = .reset
  · subst hr
    obtain ⟨hbuf, hskip, hin, hhead⟩ := h.of_reset
    exact ⟨by simp [hbuf, hin, hhead], by omega, by rw [hbuf]; exact nil_wf _, hcfg⟩
  · have hflow := h.flow hr
    have hlen := hflow.length_buf
    have hle := hflow.gHead_le
    have hin := hflow.gIn_eq
    have hghost := hs.length_ghost
    refine ⟨by omega, ?_, ?_, hcfg⟩
    · have hcount := h.skipped_le hr
      have hskip := hs.skipped_le
      omega
    · rw [h.par_eq]
      exact withinCap_mono (by omega) (accepted_fits i hs.buffer_wf)

/-- What a step that gives a next state has done: nothing, an operation of the next command, or the answer to an
unassigned code. -/
theorem step_next_cases {s t : State} (h : step s = .next t) :
    (s.cmds = [] ∧ t = s) ∨
    ∃ c rest, s.cmds = c :: rest ∧
      ((∃ i, decode s.par c = .ok i ∧ exec i { s with cmds := rest } = .next t) ∨
       (opOfCode c.op = none ∧ t = respondError .errIllegalOp { s with cmds := rest })) := by
  cases hc : s.cmds with
  | nil =>
    rw [step_idle hc] at h
    cases h
    exact .inl ⟨rfl, rfl⟩
  | cons c rest =>
    refine .inr ⟨c, rest, rfl, ?_⟩
    cases hd : decode s.par c with
    | ok i => exact .inl ⟨i, rfl, by rwa [← step_of_decode_ok hc hd]⟩
    | error e =>
      rw [step_of_decode_error hc hd] at h
      rcases decode_eq_error.mp hd with ⟨hop, rfl⟩ | ⟨o, -, -, rfl⟩
      · cases h
        exact .inr ⟨hop, rfl⟩
      · cases h

/-- The decoder gives well-formed operations only. -/
theorem wellFormed_of_decode {P : Params} {c : Command} {i : Instr} (h : decode P c = .ok i) :
    WellFormed P i = true := by
  obtain ⟨o, -, ho⟩ := decode_eq_ok.mp h
  exact decodeOperands_wf ho

theorem step_inv {s t : State} (hs : Inv s) (h : step s = .next t) : Inv t := by
  rcases step_next_cases h with ⟨-, rfl⟩ | ⟨c, rest, -, ⟨i, hd, he⟩ | ⟨-, rfl⟩⟩
  · exact hs
  · have htaken : Inv { s with cmds := rest } := hs.of_sameFramer ⟨rfl, rfl, rfl, rfl, rfl, rfl⟩ rfl
    exact (exec_next_effect he).inv (wellFormed_of_decode hd) htaken
  · exact hs.of_sameFramer ⟨rfl, rfl, rfl, rfl, rfl, rfl⟩ rfl

/-- Settles O59: a step is idle, an answer alone or a well-formed operation, and each keeps the invariant. -/
theorem everyStepKeepsTheInvariant : Obligations.EveryStepKeepsTheInvariant :=
  fun _ _ => step_inv

end Sys2Proof.Machine
end

section
/-! SUPPORT. The codec operations are functions of their operands (spec/10_state.md R20). -/

namespace Sys2Proof.Machine

/-- The result of a codec operation, from its operands alone; `none` for an operation of the framer (R20). -/
def codecResult : Instr → Option Result
  | .decode data order => some (headerResult (decodeHeader data order))
  | .decodeSlice data order => some (optHeaderResult (decodeSlice data order))
  | .encode hdr order => some (dataResult (regionBytes (encodeHeader hdr order)))
  | .getVersion hdr => some (valueResult (getVersion hdr).toNat)
  | .getPacketType hdr => some (valueResult (getPacketType hdr).toNat)
  | .getSecHdrFlag hdr => some (valueResult (getSecHdrFlag hdr).toNat)
  | .getApid hdr => some (valueResult (getApid hdr).toNat)
  | .getSeqType hdr => some (valueResult (getSeqType hdr).toNat)
  | .getSeqCount hdr => some (valueResult (getSeqCount hdr).toNat)
  | .getLengthField hdr => some (valueResult (getLengthField hdr).toNat)
  | .packetLength hdr => some (valueResult (packetLength hdr))
  | .dataLength hdr => some (valueResult (dataLength hdr))
  | .setVersion hdr v => some (headerResult (setVersion hdr v))
  | .setPacketType hdr v => some (headerResult (setPacketType hdr v))
  | .setSecHdrFlag hdr v => some (headerResult (setSecHdrFlag hdr v))
  | .setApid hdr v => some (headerResult (setApid hdr v))
  | .setSeqType hdr v => some (headerResult (setSeqType hdr v))
  | .setSeqCount hdr v => some (headerResult (setSeqCount hdr v))
  | .setLengthField hdr v => some (headerResult (setLengthField hdr v))
  | .setPacketLength hdr total => some (optHeaderResult (setPacketLength hdr total))
  | _ => none

/-- The operations with such a result are those of the codec's three families of rows (R110). -/
theorem codecResult_isSome (i : Instr) :
    (codecResult i).isSome = decide (instrOp i ∈ codecOps ++ accessorOps ++ mutatorOps) := by
  cases i <;> rfl

/-- A codec operation answers its result from every state, and does nothing else. -/
theorem exec_of_codecResult {i : Instr} {r : Result} (h : codecResult i = some r) (s : State) :
    exec i s = .next (respond r s) := by
  cases i <;> cases h <;> rfl

/-- Settles O14: the result is `codecResult`, which no state enters. -/
theorem codecIgnoresTheFramer : Obligations.CodecIgnoresTheFramer := by
  intro i hi
  obtain ⟨r, hr⟩ := Option.isSome_iff_exists.mp ((codecResult_isSome i).trans (decide_eq_true hi))
  exact ⟨r, fun s => ⟨exec_of_codecResult hr s, respond_sameFramer r s⟩⟩

end Sys2Proof.Machine
end

section
/-! SUPPORT. Where bytes enter and leave the buffer, for one operation and for a sequence (spec/10_state.md R26, R44,
spec/20_memory.md R61). -/

namespace Sys2Proof.Machine

/-- An append leaves every byte already buffered at its offset (R60). -/
theorem readByte_append (buf d : List Byte) {k : Nat} (hk : k < buf.length) :
    readByte (buf ++ d) k = readByte buf k :=
  List.getElem?_append_left hk

/-- A flow that removes nothing is an append. -/
theorem Flow.buf_of_gHead_eq {fed : List Byte} {s t : State} (h : Flow fed s t) (hhead : t.gHead = s.gHead) :
    t.buf = s.buf ++ fed := by
  rw [h.buf_eq, hhead, Nat.sub_self, List.drop_zero]

theorem eq_reset_of_op {i : Instr} (h : instrOp i = .reset) : i = .reset := by
  cases i
  case reset => rfl
  all_goals cases h

/-- An operation that is neither a reception, a removal nor `RESET` leaves the buffer and its history (R61). -/
theorem Effect.leaves_buffer {i : Instr} {s t : State} (h : Effect i s t)
    (hop : instrOp i ∉ [.recvBytes, .recvSlice, .reject, .pullPacket, .next, .reset]) :
    t.buf = s.buf ∧ t.gIn = s.gIn ∧ t.gHead = s.gHead := by
  have hrecv : instrOp i ∉ [.recvBytes, .recvSlice] := fun hm => hop (List.mem_append_left _ hm)
  have hrest : instrOp i ∉ [.reject, .pullPacket, .next, .reset] :=
    fun hm => hop (List.mem_append_right [Op.recvBytes, .recvSlice] hm)
  have hf := h.flow (by rintro rfl; simp [instrOp] at hop)
  rw [accepted_of_not_receive s hrecv] at hf
  have hhead := h.gHead_eq hrest
  exact ⟨by simpa using hf.buf_of_gHead_eq hhead, hf.gIn_eq, hhead⟩

/-- A reception appends what it accepts and removes nothing (R26). -/
theorem Effect.appends {i : Instr} {s t : State} (h : Effect i s t) (hop : instrOp i ∈ [.recvBytes, .recvSlice]) :
    t.buf = s.buf ++ accepted i s ∧ t.gIn = s.gIn + (accepted i s).length ∧ t.gHead = s.gHead := by
  obtain ⟨d, hd⟩ := receive_of_op hop
  have hf := h.flow (by rcases hd with rfl | rfl <;> simp)
  have hhead := h.gHead_eq (by rcases hd with rfl | rfl <;> simp [instrOp])
  exact ⟨hf.buf_of_gHead_eq hhead, hf.gIn_eq, hhead⟩

/-- `REJECT`, `PULL_PACKET` and `NEXT` let nothing in (R61). -/
theorem Effect.removes {i : Instr} {s t : State} (h : Effect i s t)
    (hop : instrOp i ∈ [.reject, .pullPacket, .next]) : Flow [] s t := by
  have hf := h.flow (by rintro rfl; simp [instrOp] at hop)
  have hrecv : instrOp i ∉ [.recvBytes, .recvSlice] := by
    simp only [List.mem_cons, List.not_mem_nil, or_false] at hop
    rcases hop with e | e | e <;> simp [e]
  rwa [accepted_of_not_receive s hrecv] at hf

/-- Settles O49, one clause for each kind of operation. -/
theorem bufferChangesOnlyAtItsEnds : Obligations.BufferChangesOnlyAtItsEnds := by
  intro i s t h
  have he := exec_next_effect h
  refine ⟨fun hop => ?_, fun hop => ?_, fun hop => ?_, fun hop => ?_⟩
  · obtain ⟨hbuf, hin, hhead⟩ := he.leaves_buffer hop
    exact ⟨hbuf, fun k => by rw [hbuf], hin, hhead⟩
  · obtain ⟨hbuf, hin, hhead⟩ := he.appends hop
    exact ⟨accepted i s, hbuf, hin, hhead, fun k hk => by rw [hbuf, readByte_append _ _ hk]⟩
  · obtain ⟨hle, hbound, hin, hbuf⟩ := he.removes hop
    rw [List.append_nil] at hbound hbuf
    exact ⟨hle, hbound, hbuf, hin⟩
  · obtain rfl := eq_reset_of_op hop
    obtain ⟨hbuf, -, hin, hhead⟩ := he.of_reset
    exact ⟨hbuf, hin, hhead⟩

/-- A sequence of operations completes by its first one completing and then the rest. -/
theorem execAll_cons {i : Instr} {rest : List Instr} {s t : State} (h : execAll (i :: rest) s = .next t) :
    ∃ u, Effect i s u ∧ execAll rest u = .next t := by
  obtain ⟨u, hu, he⟩ := exec_effect i s
  simp only [execAll, hu] at h
  exact ⟨u, he, h⟩

/-- Operations without `RESET` on an unbounded buffer: everything they feed enters, and bytes leave at the head only. -/
theorem execAll_flow {ops : List Instr} {s t : State} (hcap : s.par.bufCap = none) (hr : Instr.reset ∉ ops)
    (h : execAll ops s = .next t) : Flow (fedBytes ops) s t := by
  induction ops generalizing s with
  | nil =>
    cases h
    exact .of_same rfl rfl rfl
  | cons i rest ih =>
    simp only [List.mem_cons, not_or] at hr
    obtain ⟨hi, hrest⟩ := hr
    obtain ⟨u, he, hu⟩ := execAll_cons h
    have hfirst : Flow (fedBytes [i]) s u := by
      rw [← accepted_of_unbounded i hcap]
      exact he.flow (Ne.symm hi)
    rw [fedBytes_cons]
    exact hfirst.trans (ih (by rw [he.par_eq, hcap]) hrest hu)

/-- Settles O52, by the flow of bytes over the sequence. -/
theorem nothingIsLostButFromTheHead : Obligations.NothingIsLostButFromTheHead := by
  intro ops s t hcap hr h
  obtain ⟨hle, -, hin, hbuf⟩ := execAll_flow hcap hr h
  exact ⟨hle, hin, hbuf⟩

end Sys2Proof.Machine
end

section
/-! SUPPORT. Receptions follow one another as one reception of the concatenation (spec/45_framer_input_config.md R220). -/

namespace Sys2Proof.Machine

/-- What a reception that fits leaves: the bytes at the tail, the latch cleared, `OK` answered (R220). -/
def received (d : List Byte) (s : State) : State :=
  respond okResult { bufAppend d s with endLatch := false }

@[simp] theorem received_par (d : List Byte) (s : State) : (received d s).par = s.par := rfl

@[simp] theorem received_buf (d : List Byte) (s : State) : (received d s).buf = s.buf ++ d := rfl

/-- Within the capacity, reception takes all its bytes (R220, R71). -/
theorem receive_eq_received {d : List Byte} {s : State}
    (fits : ∀ cap, s.par.bufCap = some cap → s.buf.length + d.length ≤ cap) : receive d s = received d s :=
  if_pos ((withinCap_iff _ _).mpr fits)

/-- `RECV_BYTES` within the capacity completes with what holds of the state after the reception and its response. -/
theorem completes_recvBytes {d : List Byte} {s : State} {Q : State → Response → Prop}
    (fits : ∀ cap, s.par.bufCap = some cap → s.buf.length + d.length ≤ cap)
    (hQ : Q (received d s) (responseOf okResult s.freeSeq)) : Completes (.recvBytes d) s Q :=
  ⟨received d s, _, congrArg Host.Outcome.next (receive_eq_received fits), rfl, hQ⟩

/-- Two receptions leave the framer that one of the concatenation leaves: the buffer by associativity of `++`, the ghost
counter by the length of the concatenation. -/
theorem received_received_sameFramer (a b : List Byte) (s : State) :
    SameFramer (received b (received a s)) (received (a ++ b) s) where
  buf := (List.append_assoc s.buf a b).symm
  skipped := rfl
  endLatch := rfl
  cfg := rfl
  gIn := by simp [received, Nat.add_assoc]
  gHead := rfl

/-- Settles O17: each of the three receptions fits, and `received_received_sameFramer` compares what they leave. -/
theorem onlyTheConcatenationMatters : Obligations.OnlyTheConcatenationMatters := by
  intro a b s fits
  have hfirst : ∀ cap, s.par.bufCap = some cap → s.buf.length + a.length ≤ cap := fun cap hcap => by
    have := fits cap hcap
    omega
  have hsecond : ∀ cap, (received a s).par.bufCap = some cap → (received a s).buf.length + b.length ≤ cap := by
    simpa [Nat.add_assoc] using fits
  have hwhole : ∀ cap, s.par.bufCap = some cap → s.buf.length + (a ++ b).length ≤ cap := by simpa using fits
  exact completes_recvBytes hfirst <| completes_recvBytes hsecond <| completes_recvBytes hwhole <|
    received_received_sameFramer a b s

end Sys2Proof.Machine
end

section
/-! SUPPORT. The fields of a word, written from the top down, are the word (spec/30_encoding.md R94, R96). -/

namespace Sys2Proof.Machine

/-- Above a field just written stand the bits that were above it, and the two together are one wider field (R96). -/
theorem field_insertField_append (w : Word) (sh n k : Nat) (v : BitVec n) (hn : sh + n ≤ 16) :
    field (insertField w sh n v) sh (k + n) = field w (sh + n) k ++ v := by
  apply BitVec.eq_of_getLsbD_eq
  intro i hi
  rw [field_getLsbD, insertField_getLsbD _ _ _ _ _ hn, BitVec.getLsbD_append, field_getLsbD]
  by_cases hv : i < n
  · simp [hv, hi]
  · have habove : sh + i = sh + n + (i - n) := by omega
    have hk : i - n < k := by omega
    simp [hv, hi, hk, habove]

/-- The field of all sixteen bits is the word. -/
theorem field_zero_sixteen (w : Word) : field w 0 16 = w := by
  simp [field]

/-- The four writes to the control word leave its four fields in order, whatever it held (R161 to R164). -/
theorem insertField_controlWord (w : Word) (ver : BitVec 3) (typ sec : BitVec 1) (apid : Apid) :
    insertField (insertField (insertField (insertField w 13 3 ver) 12 1 typ) 11 1 sec) 0 11 apid =
      ver ++ typ ++ sec ++ apid := by
  have hver : field (insertField w 13 3 ver) 13 3 = ver := field_insertField _ _ _ _ (by omega)
  have htyp := field_insertField_append (insertField w 13 3 ver) 12 1 3 typ (by omega)
  have hsec := field_insertField_append (insertField (insertField w 13 3 ver) 12 1 typ) 11 1 4 sec (by omega)
  have hapid := field_insertField_append
    (insertField (insertField (insertField w 13 3 ver) 12 1 typ) 11 1 sec) 0 11 5 apid (by omega)
  rw [hver] at htyp
  rw [htyp] at hsec
  rw [hsec, field_zero_sixteen] at hapid
  exact hapid

/-- The two writes to the sequence word leave its two fields in order, whatever it held (R165, R166). -/
theorem insertField_sequenceWord (w : Word) (flag : BitVec 2) (count : BitVec 14) :
    insertField (insertField w 14 2 flag) 0 14 count = flag ++ count := by
  have hflag : field (insertField w 14 2 flag) 14 2 = flag := field_insertField _ _ _ _ (by omega)
  have hcount := field_insertField_append (insertField w 14 2 flag) 0 14 2 count (by omega)
  rw [hflag, field_zero_sixteen] at hcount
  exact hcount

/-- The seven mutators in turn build the header of the fields, from any header (R135). -/
theorem setFields_eq_headerOfFields (h : Header) (ver : BitVec 3) (typ sec : BitVec 1) (apid : Apid)
    (flag : BitVec 2) (count : BitVec 14) (len : BitVec 16) :
    setLengthField (setSeqCount (setSeqType (setApid (setSecHdrFlag (setPacketType (setVersion h ver) typ) sec)
      apid) flag) count) len = headerOfFields ver typ sec apid flag count len := by
  rw [setLengthField_eq]
  exact congrArg₂ (fun w0 w1 => (⟨w0, w1, len⟩ : Header)) (insertField_controlWord h.w0 ver typ sec apid)
    (insertField_sequenceWord h.w1 flag count)

/-- The words of a header built from its fields, as shifts and disjunctions (R94). -/
theorem headerOfFields_eq_shifts (ver : BitVec 3) (typ sec : BitVec 1) (apid : Apid)
    (flag : BitVec 2) (count : BitVec 14) (len : BitVec 16) :
    headerOfFields ver typ sec apid flag count len =
      ⟨(ver.setWidth 16 <<< 13) ||| (typ.setWidth 16 <<< 12) ||| (sec.setWidth 16 <<< 11) ||| apid.setWidth 16,
        (flag.setWidth 16 <<< 14) ||| count.setWidth 16, len⟩ := by
  have hcontrol := BitVec.setWidth_append_append_append_eq_shiftLeft_setWidth_or
    (w'''' := 16) (b := ver) (b' := typ) (b'' := sec) (b''' := apid)
  have hsequence := BitVec.setWidth_append_eq_shiftLeft_setWidth_or (w'' := 16) (b := flag) (b' := count)
  rw [BitVec.setWidth_eq] at hcontrol hsequence
  rw [headerOfFields, hcontrol, hsequence]

/-- Settles O12: the mutators write each word's fields from the top down, and adjacent fields are shifts and
disjunctions. -/
theorem sevenMutatorsBuildTheHeader : Obligations.SevenMutatorsBuildTheHeader :=
  fun h ver typ sec apid flag count len =>
    ⟨setFields_eq_headerOfFields h ver typ sec apid flag count len,
      headerOfFields_eq_shifts ver typ sec apid flag count len⟩

end Sys2Proof.Machine
end

section
/-! SUPPORT. What a codec operation with a given result answers (spec/10_state.md R20, spec/30_encoding.md R104). -/

namespace Sys2Proof.Machine

variable {i : Instr} {s : State}

/-- A codec operation completes with what holds of its response (R20). -/
theorem completes_of_codecResult {r : Result} {Q : State → Response → Prop} (h : codecResult i = some r)
    (hQ : Q (respond r s) (responseOf r s.freeSeq)) : Completes i s Q :=
  ⟨respond r s, _, exec_of_codecResult h s, rfl, hQ⟩

theorem answersHeader_of_codecResult {h : Header} (hi : codecResult i = some (headerResult h)) :
    AnswersHeader i s h :=
  completes_of_codecResult hi ⟨rfl, rfl, respond_sameFramer _ s, respond_sameOutside _ s⟩

theorem answersNone_of_codecResult (hi : codecResult i = some noneResult) : AnswersOnly i s .none :=
  completes_of_codecResult hi ⟨rfl, respond_sameFramer _ s, respond_sameOutside _ s⟩

/-- `DECODE_SLICE` of a region's bytes and whatever follows them has the result of `DECODE` of the region (R131). -/
theorem codecResult_decodeSlice_regionBytes (b : Region) (rest : List Byte) (order : ByteOrder) :
    codecResult (.decodeSlice (regionBytes b ++ rest) order) = some (headerResult (decodeHeader b order)) := by
  rw [codecResult, decodeSlice_regionBytes, optHeaderResult_some]

theorem codecResult_decodeSlice_of_short {d : List Byte} (order : ByteOrder) (hd : d.length < 6) :
    codecResult (.decodeSlice d order) = some noneResult := by
  rw [codecResult, decodeSlice_eq_none order hd, optHeaderResult_none]

end Sys2Proof.Machine
end

section
/-! SUPPORT. `ENCODE` and `DECODE` undo each other, word by word (spec/40_codec_decode_encode.md R130, R131, R134). -/

namespace Sys2Proof.Machine

@[simp] theorem decodeHeader_encodeHeader (h : Header) (order : ByteOrder) :
    decodeHeader (encodeHeader h order) order = h := by
  simp only [decodeHeader, encodeHeader, wordOf_bytes]

@[simp] theorem encodeHeader_decodeHeader (b : Region) (order : ByteOrder) :
    encodeHeader (decodeHeader b order) order = b := by
  simp only [decodeHeader, encodeHeader, firstByte_wordOf, secondByte_wordOf]

/-- The two orders differ by the exchange of the bytes of every word (R134). -/
theorem decodeHeader_le (b : Region) : decodeHeader b .le = decodeHeader (swapBytes b) .be := by
  simp only [decodeHeader, swapBytes, wordOf_le]

/-- Settles O4: the words' and bytes' laws carried to headers and regions, then to the operations by their results. -/
theorem encodeAndDecodeAreInverse : Obligations.EncodeAndDecodeAreInverse := by
  refine ⟨decodeHeader_encodeHeader, encodeHeader_decodeHeader, decodeHeader_le, fun h order s => ?_⟩
  have hdecode := codecResult_decodeSlice_regionBytes (encodeHeader h order) [] order
  rw [List.append_nil, decodeHeader_encodeHeader] at hdecode
  exact completes_of_codecResult rfl (answersHeader_of_codecResult hdecode)

/-- A big-endian word is the number its two bytes give (R93). -/
theorem wordOf_be_eq_ofNat (x y : Byte) : wordOf .be x y = BitVec.ofNat 16 (x.toNat * 256 + y.toNat) := by
  rw [← wordOf_be_toNat, BitVec.ofNat_toNat, BitVec.setWidth_eq]

/-- Settles O1: `DECODE` answers `decodeHeader`, big-endian of the region or, for little-endian, of its swap. -/
theorem decodeAssemblesWords : Obligations.DecodeAssemblesWords := by
  intro b s
  simp only [← wordOf_be_eq_ofNat]
  have hbe : codecResult (.decode b .be) = some (headerResult (decodeHeader b .be)) := rfl
  have hle : codecResult (.decode b .le) = some (headerResult (decodeHeader (swapBytes b) .be)) := by
    rw [codecResult, decodeHeader_le]
  exact ⟨answersHeader_of_codecResult hbe, answersHeader_of_codecResult hle⟩

/-- Settles O2: below six bytes the result is `none`, and otherwise it is that of `DECODE`. -/
theorem decodeSliceUsesTheFirstSixBytes : Obligations.DecodeSliceUsesTheFirstSixBytes := by
  refine fun order s => ⟨fun d hd => ?_, fun b rest => ?_⟩
  · exact answersNone_of_codecResult (codecResult_decodeSlice_of_short order hd)
  · have hdecode : codecResult (.decode b order) = some (headerResult (decodeHeader b order)) := rfl
    rw [exec_of_codecResult hdecode s]
    exact exec_of_codecResult (codecResult_decodeSlice_regionBytes b rest order) s

end Sys2Proof.Machine
end

section
/-! SUPPORT. Writing a field of six raw bytes (spec/40_codec_decode_encode.md R133): the field reads back, and the words
that do not hold it keep their bytes. -/

namespace Sys2Proof.Machine

/-- A field just written reads back (R168). -/
@[simp] theorem getField_setField (x : HeaderField) (h : Header) (v : BitVec (fieldWidth x)) :
    getField x (setField x h v) = v := by
  cases x <;> exact field_insertField _ _ _ _ (by decide)

/-- A field of the control word leaves the other two words (R94). -/
theorem setField_of_mem_controlWord {x : HeaderField} (hx : x ∈ [.version, .packetType, .secHdrFlag, .apid])
    (h : Header) (v : BitVec (fieldWidth x)) : (setField x h v).w1 = h.w1 ∧ (setField x h v).w2 = h.w2 := by
  cases x
  case version | packetType | secHdrFlag | apid => exact ⟨rfl, rfl⟩
  all_goals simp at hx

/-- A field of the sequence word leaves the other two words (R94). -/
theorem setField_of_mem_sequenceWord {x : HeaderField} (hx : x ∈ [.seqType, .seqCount])
    (h : Header) (v : BitVec (fieldWidth x)) : (setField x h v).w0 = h.w0 ∧ (setField x h v).w2 = h.w2 := by
  cases x
  case seqType | seqCount => exact ⟨rfl, rfl⟩
  all_goals simp at hx

section
variable {h : Header} {b : Region} {order : ByteOrder}

/-- A word that is still the one decoded from a region is encoded as the two bytes it came from (R134). -/
theorem encodeHeader_bytes_of_w0_eq (e : h.w0 = (decodeHeader b order).w0) :
    (encodeHeader h order).b0 = b.b0 ∧ (encodeHeader h order).b1 = b.b1 := by
  simp [encodeHeader, e, decodeHeader]

theorem encodeHeader_bytes_of_w1_eq (e : h.w1 = (decodeHeader b order).w1) :
    (encodeHeader h order).b2 = b.b2 ∧ (encodeHeader h order).b3 = b.b3 := by
  simp [encodeHeader, e, decodeHeader]

theorem encodeHeader_bytes_of_w2_eq (e : h.w2 = (decodeHeader b order).w2) :
    (encodeHeader h order).b4 = b.b4 ∧ (encodeHeader h order).b5 = b.b5 := by
  simp [encodeHeader, e, decodeHeader]

end

/-- Decoding what a raw write leaves gives the header with the field set (R133). -/
theorem decodeHeader_writeRaw (x : HeaderField) (b : Region) (order : ByteOrder) (v : BitVec (fieldWidth x)) :
    decodeHeader (writeRaw x b order v) order = setField x (decodeHeader b order) v :=
  decodeHeader_encodeHeader _ order

theorem readRaw_writeRaw (x : HeaderField) (b : Region) (order : ByteOrder) (v : BitVec (fieldWidth x)) :
    readRaw x (writeRaw x b order v) order = v := by
  rw [readRaw, decodeHeader_writeRaw, getField_setField]

/-- Settles O11: `SET_x` keeps the two words that do not hold `x`, and a kept word is encoded as its own bytes. -/
theorem rawWriteTouchesOneWord : Obligations.RawWriteTouchesOneWord := by
  refine fun x b order v => ⟨readRaw_writeRaw x b order v, decodeHeader_writeRaw x b order v,
    fun hx => ?_, fun hx => ?_, fun hx => ?_⟩
  · obtain ⟨h1, h2⟩ := setField_of_mem_controlWord hx (decodeHeader b order) v
    obtain ⟨hb2, hb3⟩ := encodeHeader_bytes_of_w1_eq h1
    exact ⟨hb2, hb3, encodeHeader_bytes_of_w2_eq h2⟩
  · obtain ⟨h0, h2⟩ := setField_of_mem_sequenceWord hx (decodeHeader b order) v
    obtain ⟨hb0, hb1⟩ := encodeHeader_bytes_of_w0_eq h0
    exact ⟨hb0, hb1, encodeHeader_bytes_of_w2_eq h2⟩
  · subst hx
    have h0 : (setField .lengthField (decodeHeader b order) v).w0 = (decodeHeader b order).w0 := rfl
    have h1 : (setField .lengthField (decodeHeader b order) v).w1 = (decodeHeader b order).w1 := rfl
    obtain ⟨hb0, hb1⟩ := encodeHeader_bytes_of_w0_eq h0
    exact ⟨hb0, hb1, encodeHeader_bytes_of_w1_eq h1⟩

end Sys2Proof.Machine
end

section
/-! SUPPORT. The seven accessors: what each reads off its word as a number (spec/41_codec_accessors.md R141 to R147), and
that together they give the header back (R149). -/

namespace Sys2Proof.Machine

/-- Writing back what a field holds changes nothing (R168). -/
@[simp] theorem setField_getField (x : HeaderField) (h : Header) : setField x h (getField x h) = h := by
  cases x with
  | version => exact congrArg (Header.mk · h.w1 h.w2) (insertField_field h.w0 13 3 (by decide))
  | packetType => exact congrArg (Header.mk · h.w1 h.w2) (insertField_field h.w0 12 1 (by decide))
  | secHdrFlag => exact congrArg (Header.mk · h.w1 h.w2) (insertField_field h.w0 11 1 (by decide))
  | apid => exact congrArg (Header.mk · h.w1 h.w2) (insertField_field h.w0 0 11 (by decide))
  | seqType => exact congrArg (Header.mk h.w0 · h.w2) (insertField_field h.w1 14 2 (by decide))
  | seqCount => exact congrArg (Header.mk h.w0 · h.w2) (insertField_field h.w1 0 14 (by decide))
  | lengthField => exact congrArg (Header.mk h.w0 h.w1) (insertField_field h.w2 0 16 (by decide))

/-- The header built from the seven accessor results is the header: it is what the seven mutators leave when each writes
back what its field holds. -/
theorem headerOfFields_getField (h : Header) :
    headerOfFields (getField .version h) (getField .packetType h) (getField .secHdrFlag h) (getField .apid h)
      (getField .seqType h) (getField .seqCount h) (getField .lengthField h) = h := by
  rw [← setFields_eq_headerOfFields h]
  change setField .lengthField (setField .seqCount (setField .seqType (setField .apid (setField .secHdrFlag
    (setField .packetType (setField .version h _) _) _) _) _) _) _ = h
  simp only [setField_getField]

/-- Two headers on which the seven accessors agree are equal (R149). -/
theorem header_eq_of_getField_eq {h k : Header} (e : ∀ x, getField x h = getField x k) : h = k := by
  rw [← headerOfFields_getField h, ← headerOfFields_getField k]
  simp only [e]

/-- Settles O6: the header is the one its seven fields build, and that one's words are shifts and disjunctions. -/
theorem accessorsDetermineTheHeader : Obligations.AccessorsDetermineTheHeader := by
  refine ⟨fun h => ?_, fun h k => ⟨fun e x => congrArg (getField x) e, header_eq_of_getField_eq⟩⟩
  have hwords := (headerOfFields_getField h).symm.trans (headerOfFields_eq_shifts _ _ _ _ _ _ _)
  exact ⟨congrArg Header.w0 hwords, congrArg Header.w1 hwords, (getLengthField_eq h).symm⟩

theorem getVersion_toNat (h : Header) : (getVersion h).toNat = h.w0.toNat / 8192 % 8 :=
  field_toNat h.w0 13 3

theorem getPacketType_toNat (h : Header) : (getPacketType h).toNat = h.w0.toNat / 4096 % 2 :=
  field_toNat h.w0 12 1

theorem getSecHdrFlag_toNat (h : Header) : (getSecHdrFlag h).toNat = h.w0.toNat / 2048 % 2 :=
  field_toNat h.w0 11 1

theorem getApid_toNat (h : Header) : (getApid h).toNat = h.w0.toNat % 2048 := by
  simp [getApid, field_toNat]

/-- Nothing stands above the sequence flag in its word, so the shift alone reads it (R145). -/
theorem getSeqType_toNat (h : Header) : (getSeqType h).toNat = h.w1.toNat / 16384 := by
  rw [getSeqType, field_toNat]
  have := h.w1.isLt
  omega

theorem getSeqCount_toNat (h : Header) : (getSeqCount h).toNat = h.w1.toNat % 16384 := by
  simp [getSeqCount, field_toNat]

/-- A codec operation whose result is a value answers it (R20). -/
theorem answersValue_of_codecResult {i : Instr} {s : State} {m n : Nat} (hi : codecResult i = some (valueResult m))
    (hn : m = n) : AnswersValue i s n :=
  completes_of_codecResult hi ⟨rfl, hn, respond_sameFramer _ s, respond_sameOutside _ s⟩

/-- Settles O5: each accessor's result is its field, read as a number. -/
theorem accessorsReturnTheFields : Obligations.AccessorsReturnTheFields := fun h _ =>
  ⟨answersValue_of_codecResult rfl (getVersion_toNat h), answersValue_of_codecResult rfl (getPacketType_toNat h),
    answersValue_of_codecResult rfl (getSecHdrFlag_toNat h), answersValue_of_codecResult rfl (getApid_toNat h),
    answersValue_of_codecResult rfl (getSeqType_toNat h), answersValue_of_codecResult rfl (getSeqCount_toNat h),
    answersValue_of_codecResult rfl (congrArg BitVec.toNat (getLengthField_eq h))⟩

end Sys2Proof.Machine
end

section
/-! SUPPORT. The seven mutators: each is its word with the field masked out and the value shifted in
(spec/42_codec_mutators.md R161 to R167). -/

namespace Sys2Proof.Machine

/-- `Insert` under the mask of the bits it keeps (R96). -/
theorem insertField_eq_of_keepMask {sh n : Nat} {keep : Word} (hkeep : ~~~fieldMask sh n = keep) (w : Word)
    (v : BitVec n) : insertField w sh n v = (w &&& keep) ||| (v.setWidth 16 <<< sh) := by
  rw [insertField, hkeep]

/-- `Insert` of the lowest field shifts nothing (R96). -/
theorem insertField_zero_eq_of_keepMask {n : Nat} {keep : Word} (hkeep : ~~~fieldMask 0 n = keep) (w : Word)
    (v : BitVec n) : insertField w 0 n v = (w &&& keep) ||| v.setWidth 16 := by
  rw [insertField_eq_of_keepMask hkeep, BitVec.shiftLeft_zero]

section
variable (h : Header)

theorem setVersion_eq (v : BitVec 3) :
    setVersion h v = ⟨(h.w0 &&& 0x1FFF) ||| (v.setWidth 16 <<< 13), h.w1, h.w2⟩ :=
  congrArg (Header.mk · h.w1 h.w2) (insertField_eq_of_keepMask (by decide) h.w0 v)

theorem setPacketType_eq (v : BitVec 1) :
    setPacketType h v = ⟨(h.w0 &&& 0xEFFF) ||| (v.setWidth 16 <<< 12), h.w1, h.w2⟩ :=
  congrArg (Header.mk · h.w1 h.w2) (insertField_eq_of_keepMask (by decide) h.w0 v)

theorem setSecHdrFlag_eq (v : BitVec 1) :
    setSecHdrFlag h v = ⟨(h.w0 &&& 0xF7FF) ||| (v.setWidth 16 <<< 11), h.w1, h.w2⟩ :=
  congrArg (Header.mk · h.w1 h.w2) (insertField_eq_of_keepMask (by decide) h.w0 v)

theorem setApid_eq (v : Apid) : setApid h v = ⟨(h.w0 &&& 0xF800) ||| v.setWidth 16, h.w1, h.w2⟩ :=
  congrArg (Header.mk · h.w1 h.w2) (insertField_zero_eq_of_keepMask (by decide) h.w0 v)

theorem setSeqType_eq (v : BitVec 2) :
    setSeqType h v = ⟨h.w0, (h.w1 &&& 0x3FFF) ||| (v.setWidth 16 <<< 14), h.w2⟩ :=
  congrArg (Header.mk h.w0 · h.w2) (insertField_eq_of_keepMask (by decide) h.w1 v)

theorem setSeqCount_eq (v : BitVec 14) : setSeqCount h v = ⟨h.w0, (h.w1 &&& 0xC000) ||| v.setWidth 16, h.w2⟩ :=
  congrArg (Header.mk h.w0 · h.w2) (insertField_zero_eq_of_keepMask (by decide) h.w1 v)

end

/-- A codec operation whose result is a header answers it (R20). -/
theorem answersHeader_of_codecResult_of_eq {i : Instr} {s : State} {h k : Header}
    (hi : codecResult i = some (headerResult h)) (hk : h = k) : AnswersHeader i s k :=
  answersHeader_of_codecResult (hk ▸ hi)

/-- Settles O8: each mutator's result is its header, and that header is the masked word with the value shifted in. -/
theorem mutatorsReplaceOneField : Obligations.MutatorsReplaceOneField := fun h _ =>
  ⟨fun v => answersHeader_of_codecResult_of_eq rfl (setVersion_eq h v),
    fun v => answersHeader_of_codecResult_of_eq rfl (setPacketType_eq h v),
    fun v => answersHeader_of_codecResult_of_eq rfl (setSecHdrFlag_eq h v),
    fun v => answersHeader_of_codecResult_of_eq rfl (setApid_eq h v),
    fun v => answersHeader_of_codecResult_of_eq rfl (setSeqType_eq h v),
    fun v => answersHeader_of_codecResult_of_eq rfl (setSeqCount_eq h v),
    fun v => answersHeader_of_codecResult_of_eq rfl (setLengthField_eq h v)⟩

end Sys2Proof.Machine
end

section
/-! SUPPORT. Where each field stands in the header (spec/30_encoding.md R94), that no two fields overlap, and the laws
of the mutators that follow (spec/42_codec_mutators.md R168). -/

namespace Sys2Proof.Machine

/-- The number of the word that holds a field (R94). -/
def fieldWord : HeaderField → Fin 3
  | .version | .packetType | .secHdrFlag | .apid => 0
  | .seqType | .seqCount => 1
  | .lengthField => 2

/-- The position of a field's lowest bit in its word (R94). -/
def fieldShift : HeaderField → Nat
  | .version => 13
  | .packetType => 12
  | .secHdrFlag => 11
  | .seqType => 14
  | .apid | .seqCount | .lengthField => 0

/-- The words of a header by number (R93). -/
def headerWord (h : Header) : Fin 3 → Word
  | 0 => h.w0
  | 1 => h.w1
  | 2 => h.w2

/-- An accessor reads its field of its word. -/
theorem getField_eq_field (x : HeaderField) (h : Header) :
    getField x h = field (headerWord h (fieldWord x)) (fieldShift x) (fieldWidth x) := by
  cases x <;> rfl

/-- A mutator inserts its field into its word and leaves the other words. -/
theorem headerWord_setField (x : HeaderField) (h : Header) (v : BitVec (fieldWidth x)) (k : Fin 3) :
    headerWord (setField x h v) k =
      if k = fieldWord x then insertField (headerWord h k) (fieldShift x) (fieldWidth x) v else headerWord h k := by
  cases x <;> fin_cases k <;> rfl

theorem fieldShift_add_fieldWidth_le (x : HeaderField) : fieldShift x + fieldWidth x ≤ 16 := by
  cases x <;> decide

/-- Two fields of one word do not overlap (R94). -/
theorem fields_disjoint {x y : HeaderField} : y ≠ x → fieldWord y = fieldWord x →
    fieldShift x + fieldWidth x ≤ fieldShift y ∨ fieldShift y + fieldWidth y ≤ fieldShift x := by
  cases x <;> cases y <;> decide

/-- A mutator disturbs no other field: one of its own word is disjoint from it, and the other words stay. -/
theorem getField_setField_of_ne {x y : HeaderField} (hne : y ≠ x) (h : Header) (v : BitVec (fieldWidth x)) :
    getField y (setField x h v) = getField y h := by
  rw [getField_eq_field, getField_eq_field, headerWord_setField]
  split
  next hword =>
    exact field_insertField_of_disjoint _ _ _ _ _ _ (fieldShift_add_fieldWidth_le x) (fields_disjoint hne hword)
  next => rfl

/-- The last of two writes to one field wins: no accessor tells the two headers apart. -/
theorem setField_setField (x : HeaderField) (h : Header) (v u : BitVec (fieldWidth x)) :
    setField x (setField x h v) u = setField x h u := by
  refine header_eq_of_getField_eq fun y => ?_
  by_cases hy : y = x
  · subst hy
    simp only [getField_setField]
  · simp only [getField_setField_of_ne hy]

/-- Mutators of different fields commute: no accessor tells the two headers apart. -/
theorem setField_comm {x y : HeaderField} (hne : y ≠ x) (h : Header) (v : BitVec (fieldWidth x))
    (w : BitVec (fieldWidth y)) : setField x (setField y h w) v = setField y (setField x h v) w := by
  refine header_eq_of_getField_eq fun z => ?_
  by_cases hx : z = x
  · subst hx
    simp only [getField_setField, getField_setField_of_ne hne.symm]
  · rw [getField_setField_of_ne hx]
    by_cases hy : z = y
    · subst hy
      simp only [getField_setField]
    · simp only [getField_setField_of_ne hx, getField_setField_of_ne hy]

/-- Settles O9: the fields do not overlap and together determine the header. -/
theorem mutatorLaws : Obligations.MutatorLaws := fun x h v u =>
  ⟨getField_setField x h v, fun _ hne => getField_setField_of_ne hne h v, setField_setField x h v u,
    setField_getField x h, fun _ w hne => setField_comm hne h v w⟩

end Sys2Proof.Machine
end

section
/-! SUPPORT. The two lengths are naturals (spec/43_codec_length.md R180, R181): the length field is read as a number
before anything is added, so a field of all ones does not wrap. -/

namespace Sys2Proof.Machine

/-- Settles O7: each operation's result is its length, and the length is the third word as a number and a constant. -/
theorem lengthsAreNaturalSums : Obligations.LengthsAreNaturalSums := fun h _ =>
  ⟨answersValue_of_codecResult rfl (packetLength_eq h), answersValue_of_codecResult rfl (dataLength_eq h)⟩

end Sys2Proof.Machine
end

section
/-! SUPPORT. The ten checks as a relation (spec/44_framer_status.md R197 to R206): which check of a readable header is
the first that fires, and that the status is the one of that check. -/

namespace Sys2Proof.Machine

/-- Checks 6 to 10 of a frame that is buffered whole: `st` is the status of the first of them that fires (R201 to
R205). They see the frame and its header, and nothing behind it. -/
inductive FrameCheck (V : List Byte → Bool) (c : ParserConfig) (frame : List Byte) (h : Header) : Status → Prop where
  | version (h6 : getVersion h != 0) : FrameCheck V c frame h .invalidVersion
  | secondary (h6 : ¬(getVersion h != 0)) (h7 : secondaryMissing c h) :
      FrameCheck V c frame h .secondaryHeaderInvalid
  | validation (h6 : ¬(getVersion h != 0)) (h7 : ¬secondaryMissing c h)
      (h8 : validationFails V c frame) : FrameCheck V c frame h .validationFailed
  | apid (h6 : ¬(getVersion h != 0)) (h7 : ¬secondaryMissing c h) (h8 : ¬validationFails V c frame)
      (h9 : apidRejected c h) : FrameCheck V c frame h .apidNotAllowed
  | clean (h6 : ¬(getVersion h != 0)) (h7 : ¬secondaryMissing c h) (h8 : ¬validationFails V c frame)
      (h9 : ¬apidRejected c h) : FrameCheck V c frame h .validPacket

/-- Checks 2 to 10 of a head whose header is `h`: `st` is the status of the first of them that fires (R197 to R205). -/
inductive FirstCheck (V : List Byte → Bool) (c : ParserConfig) (buf : List Byte) (h : Header) : Status → Prop where
  | sync (h2 : syncMismatch c buf) : FirstCheck V c buf h .syncNotFound
  | max (h2 : ¬syncMismatch c buf) (h3 : exceedsMax c (packetLength h)) :
      FirstCheck V c buf h .exceedsMaxPacketLength
  | min (h2 : ¬syncMismatch c buf) (h3 : ¬exceedsMax c (packetLength h))
      (h4 : belowMin c (packetLength h)) : FirstCheck V c buf h .belowMinPacketLength
  | short (h2 : ¬syncMismatch c buf) (h3 : ¬exceedsMax c (packetLength h))
      (h4 : ¬belowMin c (packetLength h)) (h5 : buf.length < frameLength c h) :
      FirstCheck V c buf h .notEnoughBytesForPacket
  | framed {st : Status} (h2 : ¬syncMismatch c buf) (h3 : ¬exceedsMax c (packetLength h))
      (h4 : ¬belowMin c (packetLength h)) (h5 : ¬buf.length < frameLength c h)
      (frame : FrameCheck V c (buf.take (frameLength c h)) h st) : FirstCheck V c buf h st

section
variable {V : List Byte → Bool} {P : Params} {c : ParserConfig} {buf : List Byte} {h : Header} {st : Status}

/-- The status for a readable header is that of the first check that fires. -/
theorem firstCheck_statusOfHeader (V : List Byte → Bool) (c : ParserConfig) (buf : List Byte) (h : Header) :
    FirstCheck V c buf h (statusOfHeader V c buf h) := by
  unfold statusOfHeader
  split_ifs with h2 h3 h4 h5 h6 h7 h8 h9
  · exact .sync h2
  · exact .max h2 h3
  · exact .min h2 h3 h4
  · exact .short h2 h3 h4 h5
  · exact .framed h2 h3 h4 h5 (.version h6)
  · exact .framed h2 h3 h4 h5 (.secondary h6 h7)
  · exact .framed h2 h3 h4 h5 (.validation h6 h7 h8)
  · exact .framed h2 h3 h4 h5 (.apid h6 h7 h8 h9)
  · exact .framed h2 h3 h4 h5 (.clean h6 h7 h8 h9)

/-- No other status is: the checks are read in order. -/
theorem FirstCheck.statusOfHeader_eq (hf : FirstCheck V c buf h st) : statusOfHeader V c buf h = st := by
  cases hf with
  | framed h2 h3 h4 h5 frame => cases frame <;> simp only [statusOfHeader, *, Bool.false_eq_true, reduceIte]
  | _ => simp only [statusOfHeader, *, Bool.false_eq_true, reduceIte]

/-- The status of a readable head, by the first check that fires (R206). -/
theorem FirstCheck.statusWith_eq (hf : FirstCheck V c buf h st) (ht : threshold1 P c ≤ buf.length)
    (hh : headerAt c buf = some h) : statusWith V P c buf = st := by
  simp [statusWith, Nat.not_lt.mpr ht, hh, hf.statusOfHeader_eq]

/-- Any status but check 1's is that of the first check that fires on the header read. -/
theorem firstCheck_of_statusWith_eq (hs : statusWith V P c buf = st) (hne : st ≠ .notEnoughBytesForHeader) :
    threshold1 P c ≤ buf.length ∧ ∃ h, headerAt c buf = some h ∧ FirstCheck V c buf h st := by
  rcases statusWith_cases V P c buf with ⟨-, h1⟩ | ⟨ht, h, hh, he⟩
  · exact absurd (hs.symm.trans h1) hne
  · refine ⟨ht, h, hh, ?_⟩
    rw [← hs, he]
    exact firstCheck_statusOfHeader V c buf h

end

/-! ### When each check fires -/

/-- Only a marker that is not empty can differ from the head: `take 0` is the empty marker. -/
theorem syncMismatch_iff_ne (c : ParserConfig) (buf : List Byte) :
    syncMismatch c buf = true ↔ buf.take c.syncBytes.length ≠ c.syncBytes := by
  unfold syncMismatch syncLen
  cases hs : c.syncBytes <;> simp

theorem syncMismatch_iff (c : ParserConfig) (buf : List Byte) : syncMismatch c buf = true ↔
    0 < c.syncBytes.length ∧ buf.take c.syncBytes.length ≠ c.syncBytes := by
  simp [syncMismatch, syncLen]

theorem exceedsMax_iff (c : ParserConfig) (n : Nat) :
    exceedsMax c n = true ↔ ∃ m, c.maxPacketLength = some m ∧ m < n := by
  unfold exceedsMax
  cases c.maxPacketLength <;> simp

theorem belowMin_iff (c : ParserConfig) (n : Nat) :
    belowMin c n = true ↔ ∃ m, c.minPacketLength = some m ∧ n < m := by
  unfold belowMin
  cases c.minPacketLength <;> simp

/-- Nothing stands above the version in its word, so the shift alone reads it (R141). -/
theorem getVersion_ne_zero_iff (h : Header) : (getVersion h != 0) = true ↔ h.w0.toNat / 8192 ≠ 0 := by
  have hlt := h.w0.isLt
  rw [bne_iff_ne, Ne, ← BitVec.toNat_inj, getVersion_toNat]
  change ¬h.w0.toNat / 8192 % 8 = 0 ↔ _
  omega

theorem secondaryMissing_iff (c : ParserConfig) (h : Header) :
    secondaryMissing c h = true ↔ c.secondaryHeaderRequired = true ∧ h.w0.toNat / 2048 % 2 = 0 := by
  simp [secondaryMissing, ← BitVec.toNat_inj, getSecHdrFlag_toNat]

theorem validationFails_iff (V : List Byte → Bool) (c : ParserConfig) (frame : List Byte) :
    validationFails V c frame = true ↔ c.validationCallback = true ∧ V frame = false := by
  simp [validationFails]

theorem apidRejected_iff (c : ParserConfig) (h : Header) :
    apidRejected c h = true ↔ ∃ A : ApidSet, c.allowedApids = some A ∧ A.getLsbD (h.w0.toNat % 2048) = false := by
  unfold apidRejected
  cases c.allowedApids <;> simp [apidIn, getApid_toNat]

/-- `CURRENT_STATUS` answers the status and changes nothing (R206). -/
theorem completes_currentStatus (s : State) : Completes .currentStatus s fun t r =>
    r.rc = responseCode .ok ∧ r.status = statusCode (status s) ∧ SameFramer s t ∧ SameOutside s t :=
  ⟨_, _, rfl, rfl, rfl, rfl, respond_sameFramer _ s, respond_sameOutside _ s⟩

/-- Settles O21: each check is the condition the statement writes out, and each clause is a case of `FirstCheck`. -/
theorem statusIsTheFirstCheckThatFires : Obligations.StatusIsTheFirstCheckThatFires := by
  refine ⟨completes_currentStatus, fun V P c buf => ⟨(status_header_iff V P c buf).mpr, ?_⟩⟩
  intro before b rest ht hbuf hbefore h plen t5 check2 check3 check4 check5 check6 check7 check8 check9
  have hh : headerAt c buf = some h := hbuf ▸ headerAt_split hbefore
  have hplen : packetLength h = plen := packetLength_eq h
  have ht5 : frameLength c h = t5 := by rw [frameLength, hplen]; rfl
  have e2 : check2 ↔ syncMismatch c buf = true := (syncMismatch_iff c buf).symm
  have e3 : check3 ↔ exceedsMax c (packetLength h) = true := by rw [hplen]; exact (exceedsMax_iff c plen).symm
  have e4 : check4 ↔ belowMin c (packetLength h) = true := by rw [hplen]; exact (belowMin_iff c plen).symm
  have e5 : check5 ↔ buf.length < frameLength c h := by rw [ht5]
  have e6 : check6 ↔ (getVersion h != 0) = true := (getVersion_ne_zero_iff h).symm
  have e7 : check7 ↔ secondaryMissing c h = true := (secondaryMissing_iff c h).symm
  have e8 : check8 ↔ validationFails V c (buf.take (frameLength c h)) = true := by
    rw [ht5]; exact (validationFails_iff V c _).symm
  have e9 : check9 ↔ apidRejected c h = true := (apidRejected_iff c h).symm
  rw [e2, e3, e4, e5, e6, e7, e8, e9]
  have fires {st : Status} (hf : FirstCheck V c buf h st) : statusWith V P c buf = st := hf.statusWith_eq ht hh
  exact ⟨fun h2 => fires (.sync h2), fun h2 h3 => fires (.max h2 h3), fun h2 h3 h4 => fires (.min h2 h3 h4),
    fun h2 h3 h4 h5 => fires (.short h2 h3 h4 h5),
    fun h2 h3 h4 h5 h6 => fires (.framed h2 h3 h4 h5 (.version h6)),
    fun h2 h3 h4 h5 h6 h7 => fires (.framed h2 h3 h4 h5 (.secondary h6 h7)),
    fun h2 h3 h4 h5 h6 h7 h8 => fires (.framed h2 h3 h4 h5 (.validation h6 h7 h8)),
    fun h2 h3 h4 h5 h6 h7 h8 h9 => fires (.framed h2 h3 h4 h5 (.apid h6 h7 h8 h9)),
    fun h2 h3 h4 h5 h6 h7 h8 h9 => fires (.framed h2 h3 h4 h5 (.clean h6 h7 h8 h9))⟩

end Sys2Proof.Machine
end

section
/-! SUPPORT. Bytes appended behind the head, the three classes of statuses, and the consequences of the order of
the checks (spec/44_framer_status.md R207 to R209). -/

namespace Sys2Proof.Machine

section
variable {V : List Byte → Bool} {P : Params} {c : ParserConfig} {buf frame : List Byte} {h : Header} {st : Status}

/-- Bytes appended behind a buffered marker do not change its comparison. -/
theorem syncMismatch_append (d : List Byte) (hs : syncLen c ≤ buf.length) :
    syncMismatch c (buf ++ d) = syncMismatch c buf := by
  rw [syncMismatch, List.take_append_of_le_length hs, syncMismatch]

/-- The checks of a whole frame give a status from 6 to 10 (R209 (c)). -/
theorem FrameCheck.statusCode_ge (hf : FrameCheck V c frame h st) : 6 ≤ (statusCode st).toNat := by
  cases hf <;> decide

/-- The check that fires first still does when bytes arrive, but for check 5 (R208). -/
theorem FirstCheck.append (hf : FirstCheck V c buf h st) (d : List Byte) (hs : syncLen c ≤ buf.length)
    (hne : st ≠ .notEnoughBytesForPacket) : FirstCheck V c (buf ++ d) h st := by
  have hsync := syncMismatch_append d hs
  cases hf with
  | sync h2 => exact .sync (hsync.trans h2)
  | max h2 h3 => exact .max (hsync ▸ h2) h3
  | min h2 h3 h4 => exact .min (hsync ▸ h2) h3 h4
  | short => exact absurd rfl hne
  | framed h2 h3 h4 h5 frame =>
    have h5' : ¬(buf ++ d).length < frameLength c h := by rw [List.length_append]; omega
    refine .framed (hsync ▸ h2) h3 h4 h5' ?_
    rwa [List.take_append_of_le_length (Nat.le_of_not_lt h5)]

/-- Where check 5 fires, no earlier check does when bytes arrive (R208). -/
theorem FirstCheck.statusCode_ge_append (hf : FirstCheck V c buf h .notEnoughBytesForPacket) {d : List Byte}
    (hs : syncLen c ≤ buf.length) (hd : FirstCheck V c (buf ++ d) h st) : 5 ≤ (statusCode st).toNat := by
  cases hf with
  | framed _ _ _ _ frame => cases frame
  | short h2 h3 h4 =>
    rw [← syncMismatch_append d hs] at h2
    cases hd with
    | sync fires => exact absurd fires h2
    | max _ fires => exact absurd fires h3
    | min _ _ fires => exact absurd fires h4
    | short => decide
    | framed _ _ _ _ frame => exact Nat.le_of_succ_le frame.statusCode_ge

/-- Above check 1's threshold the whole marker is buffered. -/
theorem syncLen_le_of_threshold1 (ht : threshold1 P c ≤ buf.length) : syncLen c ≤ buf.length := by
  have ho := le_trans (threshold1_ge P c) ht
  rw [headerOffset] at ho
  omega

/-- A header that check 1 lets through stays readable when bytes arrive, and stays the same. -/
theorem readableHead_append (ht : threshold1 P c ≤ buf.length) (hh : headerAt c buf = some h) (d : List Byte) :
    threshold1 P c ≤ (buf ++ d).length ∧ headerAt c (buf ++ d) = some h := by
  refine ⟨by rw [List.length_append]; omega, ?_⟩
  rwa [headerAt_append d (le_trans (threshold1_ge P c) ht)]

end

/-- Settles O24: the header above check 1's threshold stays, and so does every check but the fifth. -/
theorem statusIsStableUnderAppending : Obligations.StatusIsStableUnderAppending := by
  refine fun V P c buf d => ⟨fun hi => ?_, fun hs => ?_⟩
  · have hne : ∀ st, insufficient st = true → statusWith V P c buf ≠ st := fun st hst e => by
      rw [e, hst] at hi
      cases hi
    obtain ⟨ht, h, hh, hf⟩ := firstCheck_of_statusWith_eq rfl (hne _ rfl)
    obtain ⟨ht', hh'⟩ := readableHead_append ht hh d
    exact (hf.append d (syncLen_le_of_threshold1 ht) (hne _ rfl)).statusWith_eq ht' hh'
  · obtain ⟨ht, h, hh, hf⟩ := firstCheck_of_statusWith_eq hs (by decide)
    obtain ⟨ht', hh'⟩ := readableHead_append ht hh d
    have hd := firstCheck_statusOfHeader V c (buf ++ d) h
    rw [hd.statusWith_eq ht' hh']
    exact hf.statusCode_ge_append (syncLen_le_of_threshold1 ht) hd

/-- The malformed statuses are 2 to 4 and 6 to 9 in the order of the checks (R207). -/
theorem malformed_iff (st : Status) : malformed st = true ↔ st ∈ [.syncNotFound, .exceedsMaxPacketLength,
    .belowMinPacketLength, .invalidVersion, .secondaryHeaderInvalid, .validationFailed, .apidNotAllowed] := by
  cases st <;> decide

theorem valid_iff (st : Status) : valid st = true ↔ st = .validPacket := by
  cases st <;> decide

/-- Settles O23, a class at a time. -/
theorem statusClasses : Obligations.StatusClasses :=
  fun st => ⟨insufficient_iff st, valid_iff st, malformed_iff st⟩

/-- Six bytes are a whole header and no whole packet (R209 (a)). -/
theorem statusWith_of_six_bytes (V : List Byte → Bool) {P : Params} {c : ParserConfig} {buf : List Byte}
    (hsync : c.syncBytes = []) (hmax : c.maxPacketLength = none) (hmin : c.minPacketLength = none)
    (hpre : c.numHeaderBytes = 0) (hfoot : c.numFooterBytes = 0) (hextra : P.t1Extra = .extra 0)
    (hbuf : buf.length = 6) : statusWith V P c buf = .notEnoughBytesForPacket := by
  have ht : threshold1 P c ≤ buf.length := by
    simp [threshold1, t1Extra, headerOffset, syncLen, hsync, hpre, hfoot, hextra, hbuf]
  obtain ⟨h, hh⟩ := headerAt_exists (le_trans (threshold1_ge P c) ht)
  have h5 : buf.length < frameLength c h := by
    have := frameLength_ge c h
    omega
  have hf : FirstCheck V c buf h .notEnoughBytesForPacket :=
    .short (by simp [syncMismatch, syncLen, hsync]) (by simp [exceedsMax, hmax]) (by simp [belowMin, hmin]) h5
  exact hf.statusWith_eq ht hh

/-- Check 2 sees nothing of the header, so it fires on any (R209 (d)). -/
theorem statusWith_of_syncMismatch (V : List Byte → Bool) {P : Params} {c : ParserConfig} {buf : List Byte}
    (ht : threshold1 P c ≤ buf.length) (h2 : syncMismatch c buf = true) : statusWith V P c buf = .syncNotFound := by
  obtain ⟨h, hh⟩ := headerAt_exists (le_trans (threshold1_ge P c) ht)
  exact (FirstCheck.sync (V := V) (h := h) h2).statusWith_eq ht hh

/-- Settles O25, each clause by the case of `FirstCheck` that its status has. -/
theorem consequencesOfTheCheckOrder : Obligations.ConsequencesOfTheCheckOrder := by
  refine fun V P c buf => ⟨statusWith_of_six_bytes V, fun h hsync ht hh => ?_, fun hcode => ?_, fun hs hcb => ?_,
    fun hs m hm => ?_, fun ht hne => statusWith_of_syncMismatch V ht ((syncMismatch_iff_ne c buf).mpr hne)⟩
  · have h2 : ¬syncMismatch c buf = true := fun hne => (syncMismatch_iff_ne c buf).mp hne hsync
    refine ⟨fun m hm hlt => ?_, fun m hm hlt hmax => ?_⟩
    · have h3 := (exceedsMax_iff c (packetLength h)).mpr ⟨m, hm, hlt⟩
      exact (FirstCheck.max (V := V) h2 h3).statusWith_eq ht hh
    · have h3 : ¬exceedsMax c (packetLength h) = true := fun h3 => by
        obtain ⟨k, hk, hlt⟩ := (exceedsMax_iff c _).mp h3
        exact Nat.not_lt.mpr (hmax k hk) hlt
      have h4 := (belowMin_iff c (packetLength h)).mpr ⟨m, hm, hlt⟩
      exact (FirstCheck.min (V := V) h2 h3 h4).statusWith_eq ht hh
  · rcases statusWith_cases V P c buf with ⟨-, he⟩ | ⟨-, h, hh, he⟩ <;> rw [he] at hcode
    · exact absurd hcode (by decide)
    · exact ⟨h, hh, frame_buffered hcode⟩
  · obtain ⟨-, h, hh, hf⟩ := firstCheck_of_statusWith_eq hs (by decide)
    cases hf with
    | framed _ _ _ _ frame =>
      cases frame with
      | apid _ _ h8 => exact ⟨h, hh, by simpa [validationFails, hcb] using h8⟩
  · obtain ⟨-, h, hh, hf⟩ := firstCheck_of_statusWith_eq hs (by decide)
    cases hf with
    | min _ h3 => exact ⟨h, hh, by simpa [exceedsMax, hm] using h3⟩
    | framed _ _ _ _ frame => cases frame

end Sys2Proof.Machine
end

section
/-! SUPPORT. How far `PULL_PACKET` resynchronises (spec/46_framer_extract.md R262, R265, spec/70_reset_and_hazards.md
R348). -/

namespace Sys2Proof.Machine

/-- `PULL_PACKET` completes with what holds of the state after the pull and its response. -/
theorem completes_pullPacket {s : State} {Q : State → Response → Prop}
    (hQ : Q (respond (optDataResult (pull s).2) (pull s).1)
      (responseOf (optDataResult (pull s).2) (pull s).1.freeSeq)) : Completes .pullPacket s Q :=
  ⟨_, _, rfl, rfl, hQ⟩

/-- `PULL_PACKET` at an insufficient-data head answers `NONE` and changes nothing (R303). -/
theorem answersNone_pullPacket {s : State} (h : insufficient (status s) = true) :
    AnswersOnly .pullPacket s .none := by
  refine completes_pullPacket ?_
  rw [pull_of_insufficient h]
  exact ⟨rfl, respond_sameFramer _ s, respond_sameOutside _ s⟩

/-- The code `NONE` says that no span was extracted. -/
theorem optDataResult_rc_eq_none {d : Option (List Byte)}
    (h : responseCode (optDataResult d).rc = responseCode .none) : d = none := by
  cases d with
  | none => rfl
  | some d => exact absurd h (by simp [responseCode])

theorem pull_skipped_le (s : State) :
    (pull s).1.skipped ≤ s.skipped + (s.buf.length + 1 - threshold1 s.par s.cfg) := by
  obtain ⟨k, -, hj, ⟨-, he⟩ | ⟨-, h, -, -, he⟩⟩ := pull_spec s <;> rw [he] <;>
    exact Nat.add_le_add_left (resync_bound hj) s.skipped

/-- Settles O31: the advances are counted by `pull_skipped_le`, and `NONE` is answered at an insufficient head only. -/
theorem resynchronisationIsBounded : Obligations.ResynchronisationIsBounded := by
  refine fun s => completes_pullPacket ⟨pull_skipped_le s, fun hrc => ?_⟩
  have hnone : (pull s).2 = none := optDataResult_rc_eq_none hrc
  have hins := pull_none_insufficient (Prod.ext rfl hnone)
  exact ⟨hins, answersNone_pullPacket hins⟩

/-- With the minimum above the maximum one of checks 2 to 4 fires on every header (R348). -/
theorem FirstCheck.malformed_of_contradictory {V : List Byte → Bool} {c : ParserConfig} {buf : List Byte} {h : Header}
    {st : Status} {lo hi : Nat} (hf : FirstCheck V c buf h st) (hlo : c.minPacketLength = some lo)
    (hhi : c.maxPacketLength = some hi) (hlt : hi < lo) : malformed st = true := by
  have hbounds : exceedsMax c (packetLength h) = true ∨ belowMin c (packetLength h) = true := by
    rw [exceedsMax_iff, belowMin_iff]
    rcases Nat.lt_or_ge hi (packetLength h) with habove | hbelow
    · exact .inl ⟨hi, hhi, habove⟩
    · exact .inr ⟨lo, hlo, Nat.lt_of_le_of_lt hbelow hlt⟩
  cases hf with
  | sync | max | min => rfl
  | short _ h3 h4 | framed _ h3 h4 => exact absurd hbounds (not_or.mpr ⟨h3, h4⟩)

/-- With the minimum above the maximum a head is malformed or below check 1's threshold (R348). -/
theorem statusWith_of_contradictory (V : List Byte → Bool) (P : Params) {c : ParserConfig} (buf : List Byte)
    {lo hi : Nat} (hlo : c.minPacketLength = some lo) (hhi : c.maxPacketLength = some hi) (hlt : hi < lo) :
    statusWith V P c buf = .notEnoughBytesForHeader ∨ malformed (statusWith V P c buf) = true := by
  rcases statusWith_cases V P c buf with ⟨-, he⟩ | ⟨-, h, -, he⟩
  · exact .inl he
  · rw [he]
    exact .inr ((firstCheck_statusOfHeader V c buf h).malformed_of_contradictory hlo hhi hlt)

/-- Settles O32: the pull stops at a head that is not malformed, and here only a head below `T1` bytes is not. -/
theorem contradictoryBoundsRejectEverything : Obligations.ContradictoryBoundsRejectEverything := by
  intro s lo hi hlo hhi hlt
  have hstatus (buf : List Byte) := statusWith_of_contradictory Config.validate s.par buf hlo hhi hlt
  have hvalid (buf : List Byte) : statusWith Config.validate s.par s.cfg buf ≠ .validPacket := fun hv => by
    have := hstatus buf
    rw [hv] at this
    exact absurd this (by decide)
  refine ⟨hvalid s.buf, completes_pullPacket ?_⟩
  obtain ⟨k, -, -, ⟨hins, he⟩ | ⟨hv, -⟩⟩ := pull_spec s
  · rw [he]
    rcases hstatus (s.buf.drop k) with hheader | hmal
    · exact ⟨rfl, (status_header_iff _ _ _ _).mp hheader⟩
    · exact absurd hmal (by simp [← status_advanced, malformed, hins])
  · exact absurd hv (hvalid (s.buf.drop k))

end Sys2Proof.Machine
end

section
/-! SUPPORT. What a configuration write answers and what it leaves (spec/45_framer_input_config.md R225 to R237). -/

namespace Sys2Proof.Machine

/-- An operation whose next state is `writeCfg c s` answers `OK` and replaces the configuration by `c`, nothing else
(R225). -/
theorem writesConfig_of_exec_eq {i : Instr} {s : State} {c : ParserConfig} (h : exec i s = .next (writeCfg c s)) :
    WritesConfig i s c :=
  ⟨writeCfg c s, _, h, writeCfg_resp c s, congrArg responseCode okResult_rc, writeCfg_cfg c s, writeCfg_buf c s,
    writeCfg_skipped c s, writeCfg_endLatch c s, writeCfg_gIn c s, writeCfg_gHead c s, writeCfg_par c s,
    writeCfg_cmds c s⟩

/-- Settles O40: each of the eleven operations runs, by its definition, as a `writeCfg` of the configuration with its
one field replaced, and `writesConfig_of_exec_eq` says what a `writeCfg` leaves. -/
theorem configurationWritesOneField : Obligations.ConfigurationWritesOneField := by
  intro s
  refine ⟨?allowedApids, ?maxPacketLength, ?minPacketLength, ?secondaryHeaderRequired, ?keepSync, ?numHeaderBytes,
    ?keepHeader, ?numFooterBytes, ?keepFooter, ?littleEndianHeader, ?validationCallback⟩ <;>
    exact fun _ => writesConfig_of_exec_eq rfl

end Sys2Proof.Machine
end

section
/-! SUPPORT. `PULL_PACKET` and `NEXT` at a malformed head (spec/60_exceptions.md R302). -/

namespace Sys2Proof.Machine

section
variable {s : State}

/-- `PULL_PACKET` runs as the pull and its response, so equal pulls are equal runs. -/
theorem exec_pullPacket_of_pull_eq {t : State} (h : pull s = pull t) : exec .pullPacket s = exec .pullPacket t := by
  change execPullPacket s = execPullPacket t
  rw [execPullPacket, h, execPullPacket]

/-- `NEXT` runs as the iteration and its response, so equal iterations are equal runs. -/
theorem exec_next_of_iterate_eq {t : State} (h : iterate s = iterate t) : exec .next s = exec .next t := by
  change execNext s = execNext t
  rw [execNext, h, execNext]

theorem pullWithRetry_of_malformed (h : malformed (status s) = true) :
    pullWithRetry s = pullWithRetry (advance1 s) := by
  rw [pullWithRetry, pull_of_malformed h, pullWithRetry]

/-- With the latch clear, which an advance leaves so, `NEXT` at a malformed head is `NEXT` after one advance (R302). -/
theorem iterate_of_malformed (h : malformed (status s) = true) (hlatch : s.endLatch = false) :
    iterate s = iterate (advance1 s) := by
  simp only [iterate, advance1_endLatch, hlatch, pullWithRetry_of_malformed h, Bool.false_eq_true, if_false]

end

/-- Settles O27: the state written out in it is `advance1 s`, and both operations begin with the pull, whose
resynchronisation makes that same advance first. -/
theorem pullAdvancesOverAMalformedHead : Obligations.PullAdvancesOverAMalformedHead := by
  intro s hmal
  have hpull : exec .pullPacket s = exec .pullPacket (advance1 s) :=
    exec_pullPacket_of_pull_eq (pull_of_malformed hmal)
  have hnext (hlatch : s.endLatch = false) : exec .next s = exec .next (advance1 s) :=
    exec_next_of_iterate_eq (iterate_of_malformed hmal hlatch)
  exact ⟨hpull, hnext, completes_currentStatus s⟩

end Sys2Proof.Machine
end

section
/-! SUPPORT. The decoder reads back what the encoder writes (spec/30_encoding.md R105, R110). -/

namespace Sys2Proof.Machine

/-- The row whose code stands on the command of an operation is the operation's own (R110). -/
theorem opOfCode_encode (i : Instr) : opOfCode (encode i).op = some (instrOp i) := by
  cases i with
  | cfgAllowedApids set => exact (Laws.EncodedOp.cfgAllowedApids set).2
  | cfgMaxPacketLength m => exact (Laws.EncodedOp.cfgMaxPacketLength m).2
  | cfgMinPacketLength m => exact (Laws.EncodedOp.cfgMinPacketLength m).2
  | _ => rfl

/-- Each operand comes back from the wire it was put on: a header from its 48 wires, a field value or a Boolean from a
port of its width, a length of at most `LEN_W` bits, and the other operands as they are (R105). -/
theorem decodeOperands_encode {P : Params} {i : Instr} (hwf : WellFormed P i = true) :
    decodeOperands P (instrOp i) (encode i) = some i := by
  cases i with
  | decode _ order | decodeSlice _ order =>
    simp only [encode, instrOp, decodeOperands, orderOf_orderBit, regionOf_regionBytes, Option.map_some]
  | encode hdr order =>
    simp only [encode, instrOp, decodeOperands, orderOf_orderBit, unpackHeader_packHeader]
  | getVersion hdr | getPacketType hdr | getSecHdrFlag hdr | getApid hdr | getSeqType hdr | getSeqCount hdr
  | getLengthField hdr | packetLength hdr | dataLength hdr =>
    simp only [encode, instrOp, decodeOperands, unpackHeader_packHeader]
  | setVersion hdr v | setPacketType hdr v | setSecHdrFlag hdr v | setApid hdr v | setSeqType hdr v
  | setSeqCount hdr v | setLengthField hdr v =>
    simp only [encode, instrOp, decodeOperands, unpackHeader_packHeader, portVal_toNat, Option.map_some]
  | allowApid apid => simp only [encode, instrOp, decodeOperands, portVal_toNat, Option.map_some]
  | setPacketLength hdr total =>
    have hport : portLen P total = some total := portLen_of_fits hwf
    simp only [encode, instrOp, decodeOperands, unpackHeader_packHeader, hport, Option.map_some]
  | cfgNumHeaderBytes n | cfgNumFooterBytes n =>
    have hport : portLen P n = some n := portLen_of_fits hwf
    simp only [encode, instrOp, decodeOperands, hport, Option.map_some]
  | cfgMaxPacketLength m | cfgMinPacketLength m =>
    cases m with
    | none => rfl
    | some n =>
      have hport : portLen P n = some n := portLen_of_fits hwf
      simp only [encode, instrOp, decodeOperands, portOptLen, hport, Option.map_some, reduceIte]
  | cfgSecondaryHeaderRequired b | cfgKeepSync b | cfgKeepHeader b | cfgKeepFooter b | cfgLittleEndianHeader b =>
    simp only [encode, instrOp, decodeOperands, portBool_boolVal, Option.map_some]
  | cfgAllowedApids set => cases set <;> rfl
  | _ => rfl

theorem decode_encode {P : Params} {i : Instr} (hwf : WellFormed P i = true) : decode P (encode i) = .ok i :=
  decode_eq_ok.mpr ⟨instrOp i, opOfCode_encode i, decodeOperands_encode hwf⟩

/-- Settles O56: the code on the command names the row, and the row's operands come back from their wires. -/
theorem decodeOfEncode : Obligations.DecodeOfEncode :=
  fun _ _ => decode_encode

/-- Settles O57: what the decoder accepts has the row of its code and well-formed operands, so it presents itself again
by `decode_encode`. -/
theorem decodedOperationsAreWellFormed : Obligations.DecodedOperationsAreWellFormed := by
  intro P c i h
  obtain ⟨o, hcode, hoperands⟩ := decode_eq_ok.mp h
  obtain rfl : instrOp i = o := decodeOperands_op hoperands
  have hwf : WellFormed P i = true := decodeOperands_wf hoperands
  have hop : (encode i).op = c.op := (opCode_of_opOfCode (opOfCode_encode i)).symm.trans (opCode_of_opOfCode hcode)
  exact ⟨hwf, hop, hcode, decode_encode hwf⟩

end Sys2Proof.Machine
end

section
/-! SUPPORT. Which commands no port carries, which wires a row reads, and which codes name a row
(spec/30_encoding.md R105, R106, R110, spec/93_implementation_defined.md U1). -/

namespace Sys2Proof.Machine

/-! ### Operands that no port carries -/

/-- A command whose wires its port cannot carry has the code of a row (R106). -/
theorem NotPresentable.exists_op {P : Params} {c : Command} (h : NotPresentable P c) :
    ∃ o, opOfCode c.op = some o := by
  simp only [NotPresentable, List.mem_cons, List.not_mem_nil, or_false] at h
  rcases h with ⟨h, -⟩ | ⟨h, -⟩ | ⟨h, -⟩ | ⟨h, -⟩ | ⟨h, -⟩ | ⟨h, -⟩ | ⟨h, -⟩ | ⟨h, -⟩ | ⟨h, -⟩ |
    ⟨h | h | h | h | h, -⟩ | ⟨h | h | h, -⟩ | ⟨h | h, -⟩
  all_goals (rw [h]; exact ⟨_, rfl⟩)

/-- Row by row: the operands are not read exactly where a wire carries what the row's port cannot (U1, R160). -/
theorem notPresentable_iff_of_op {P : Params} {c : Command} {o : Op} (hop : c.op = opCode o) :
    NotPresentable P c ↔ decodeOperands P o c = none := by
  cases o <;>
    simp [NotPresentable, hop, opCode, decodeOperands, portVal_eq_none, portBool_eq_none, portLen_eq_none,
      portOptLen_eq_none, regionOf_eq_none]

/-- The decoder rejects a command for its operands exactly when no port carries them (U1). -/
theorem decode_eq_operandNotPresentable_iff {P : Params} {c : Command} :
    decode P c = .error (.operandNotPresentable c.op) ↔ NotPresentable P c := by
  simp only [decode_eq_error, reduceCtorEq, and_false, false_or, and_true]
  constructor
  · rintro ⟨o, hcode, hnone⟩
    exact (notPresentable_iff_of_op (opCode_of_opOfCode hcode).symm).mpr hnone
  · intro h
    obtain ⟨o, hcode⟩ := h.exists_op
    exact ⟨o, hcode, (notPresentable_iff_of_op (opCode_of_opOfCode hcode).symm).mp h⟩

section
variable {s : State} {c : Command} {rest : List Command}

/-- A step refuses a command that no port carries (U1). -/
theorem step_of_notPresentable (h : s.cmds = c :: rest) (hn : NotPresentable s.par c) :
    step s = .refused (.operandNotPresentable c.op) :=
  step_of_decode_error h (decode_eq_operandNotPresentable_iff.mpr hn)

/-- A step answers an unassigned code with `ERR_ILLEGAL_OP` (R106). -/
theorem step_of_unassigned (h : s.cmds = c :: rest) (hcode : opOfCode c.op = none) :
    step s = .next (respondError .errIllegalOp { s with cmds := rest }) :=
  step_of_decode_error h (decode_eq_error.mpr (.inl ⟨hcode, rfl⟩))

/-- A step runs every other command: it is the operation that it decodes to, or the answer to an unassigned code. -/
theorem step_of_presentable (h : s.cmds = c :: rest) (hn : ¬NotPresentable s.par c) : ∃ t, step s = .next t := by
  cases hd : decode s.par c with
  | ok i =>
    obtain ⟨t, ht, -⟩ := exec_effect i { s with cmds := rest }
    exact ⟨t, (step_of_decode_ok h hd).trans ht⟩
  | error e =>
    rcases decode_eq_error.mp hd with ⟨hcode, -⟩ | ⟨o, -, -, rfl⟩
    · exact ⟨_, step_of_unassigned h hcode⟩
    · exact absurd (decode_eq_operandNotPresentable_iff.mp hd) hn

end

/-! ### The wires a row reads -/

/-- The two commands agree on the wires that the row of their code reads, as the columns of R110 list them: the order,
the header, the value, the present bit (with the value it announces), the data, and the set with its own present bit. -/
structure SameWires (c d : Command) : Prop where
  order : c.op ∈ [0x00, 0x01, 0x02] → c.order = d.order
  hdr : c.op ∈ [0x02, 0x10, 0x11, 0x12, 0x13, 0x14, 0x15, 0x16, 0x17, 0x18, 0x20, 0x21, 0x22, 0x23, 0x24, 0x25, 0x26,
    0x27] → c.hdr = d.hdr
  val : c.op ∈ [0x20, 0x21, 0x22, 0x23, 0x24, 0x25, 0x26, 0x27, 0x32, 0x43, 0x45, 0x46, 0x47, 0x48, 0x49, 0x4A] →
    c.val = d.val
  present : c.op ∈ [0x41, 0x42, 0x4B] → c.present = d.present
  optVal : c.op ∈ [0x41, 0x42] → c.present = true → c.val = d.val
  data : c.op ∈ [0x00, 0x01, 0x30, 0x31, 0x44] → c.data = d.data
  setPresent : c.op = 0x40 → c.setPresent = d.setPresent
  set : c.op = 0x40 → c.setPresent = true → c.set = d.set

/-- The operands of a row are read from the row's wires alone (R105). -/
theorem SameWires.decodeOperands_eq {P : Params} {c d : Command} {o : Op} (h : SameWires c d)
    (hop : c.op = opCode o) : decodeOperands P o c = decodeOperands P o d := by
  obtain ⟨horder, hhdr, hval, hpresent, hoptVal, hdata, hsetPresent, hset⟩ := h
  rw [hop] at horder hhdr hval hpresent hoptVal hdata hsetPresent hset
  cases o with
  | decode | decodeSlice => simp only [decodeOperands, horder (by decide), hdata (by decide)]
  | encode => simp only [decodeOperands, horder (by decide), hhdr (by decide)]
  | getVersion | getPacketType | getSecHdrFlag | getApid | getSeqType | getSeqCount | getLengthField | packetLength
  | dataLength => simp only [decodeOperands, hhdr (by decide)]
  | setVersion | setPacketType | setSecHdrFlag | setApid | setSeqType | setSeqCount | setLengthField
  | setPacketLength => simp only [decodeOperands, hhdr (by decide), hval (by decide)]
  | recvBytes | recvSlice | cfgSyncBytes => simp only [decodeOperands, hdata (by decide)]
  | allowApid | cfgSecondaryHeaderRequired | cfgKeepSync | cfgNumHeaderBytes | cfgKeepHeader | cfgNumFooterBytes
  | cfgKeepFooter | cfgLittleEndianHeader => simp only [decodeOperands, hval (by decide)]
  | cfgMaxPacketLength | cfgMinPacketLength =>
    rw [decodeOperands, decodeOperands, portOptLen_congr (hoptVal (by decide)), hpresent (by decide)]
  | cfgValidationCallback => simp only [decodeOperands, hpresent (by decide)]
  | cfgAllowedApids =>
    have hbit : c.setPresent = d.setPresent := hsetPresent rfl
    cases hc : c.setPresent with
    | false => simp [decodeOperands, ← hbit, hc]
    | true => simp [decodeOperands, ← hbit, hc, hset rfl hc]
  | currentHeader | currentStatus | reject | pullPacket | next | getSkipped | cfgRead | reset => rfl

/-- Commands of one code that agree on the wires its row reads decode alike (R105). -/
theorem SameWires.decode_eq {P : Params} {c d : Command} (h : SameWires c d) (hcode : c.op = d.op) :
    decode P c = decode P d := by
  cases ho : opOfCode c.op with
  | none => simp [decode, ← hcode, ho]
  | some o => simp [decode, ← hcode, ho, h.decodeOperands_eq (opCode_of_opOfCode ho).symm]

/-- Settles O55: idle by `step_idle`, refused exactly where the decoder finds no operands, and the decoder reads no
other wires than `SameWires` lists. -/
theorem stepStopsOnlyOnUnpresentableOperands : Obligations.StepStopsOnlyOnUnpresentableOperands :=
  ⟨fun _ => step_idle, fun _ _ _ h => ⟨step_of_notPresentable h, step_of_presentable h⟩,
    fun _ _ _ hcode horder hhdr hval hpresent hoptVal hdata hsetPresent hset =>
      SameWires.decode_eq ⟨horder, hhdr, hval, hpresent, hoptVal, hdata, hsetPresent, hset⟩ hcode⟩

/-! ### The codes that name a row -/

/-- The codes of the rows, as numbers in the table's order (R110). -/
def assignedCodes : List Nat := allOps.map fun o => (opCode o).toNat

/-- A code names no row exactly when it is none of theirs (R106). -/
theorem opOfCode_eq_none_iff (code : BitVec 8) : opOfCode code = none ↔ code.toNat ∉ assignedCodes := by
  simp [opOfCode, assignedCodes, BitVec.toNat_inj]

/-- The decoder calls a command's code unassigned exactly when it names no row (R106). -/
theorem decode_eq_unassignedOp_iff {P : Params} {c : Command} :
    decode P c = .error (.unassignedOp c.op) ↔ c.op.toNat ∉ assignedCodes := by
  simp [decode_eq_error, opOfCode_eq_none_iff]

/-- Settles O53: the definition of a step at a command that decodes. -/
theorem stepRunsTheDecodedOperation : Obligations.StepRunsTheDecodedOperation :=
  fun _ _ _ _ => step_of_decode_ok

/-- Settles O54: the statement's codes are `assignedCodes`, and the step at any other code is the answer alone. -/
theorem unassignedCodeIsAnswered : Obligations.UnassignedCodeIsAnswered := by
  intro s c rest hcmds hcode
  have hnone : opOfCode c.op = none := (opOfCode_eq_none_iff c.op).mpr hcode
  exact ⟨_, _, step_of_unassigned hcmds hnone, rfl, rfl, ⟨rfl, rfl, rfl, rfl, rfl, rfl⟩, rfl, rfl⟩

/-- Settles O58: the table's words are evaluated row by row, and the codes written out are `assignedCodes`. -/
theorem everyRowDecodesFromItsCode : Obligations.EveryRowDecodesFromItsCode := by
  refine ⟨⟨?codec, ?accessor, ?mutator, ?framer, ?config, ?system⟩, fun _ _ => decode_eq_unassignedOp_iff⟩
  all_goals rfl

end Sys2Proof.Machine
end

section
/-! SUPPORT. The bytes of `ENCODE`, the range of `SET_PACKET_LENGTH` and the named views of the enumerated fields
(spec/40_codec_decode_encode.md R132, spec/43_codec_length.md R182, spec/41_codec_accessors.md R148,
spec/42_codec_mutators.md R169). -/

namespace Sys2Proof.Machine

/-- The byte at bits 15 to 8 of a word, as a number (R93). -/
theorem extractLsb'_eight_eq_ofNat (w : Word) : w.extractLsb' 8 8 = BitVec.ofNat 8 (w.toNat / 256) := by
  rw [BitVec.extractLsb', Nat.shiftRight_eq_div_pow]

/-- The byte at bits 7 to 0 of a word, as a number (R93). -/
theorem extractLsb'_zero_eq_ofNat (w : Word) : w.extractLsb' 0 8 = BitVec.ofNat 8 w.toNat := rfl

/-- A codec operation whose result is a byte sequence answers it (R20). -/
theorem answersData_of_codecResult {i : Instr} {s : State} {d e : List Byte}
    (hi : codecResult i = some (dataResult d)) (he : d = e) : AnswersData i s e :=
  completes_of_codecResult hi ⟨rfl, he, respond_sameFramer _ s, respond_sameOutside _ s⟩

/-- Settles O3: under either order the two bytes of a word are its quotient and its remainder by 256. -/
theorem encodeSplitsWords : Obligations.EncodeSplitsWords := by
  refine fun h s => ⟨answersData_of_codecResult rfl ?be, answersData_of_codecResult rfl ?le⟩ <;>
    simp only [regionBytes, encodeHeader, firstByte, secondByte, extractLsb'_eight_eq_ofNat,
      extractLsb'_zero_eq_ofNat]

/-- Outside the range 7 to 65542 there is no header (R182). -/
theorem setPacketLength_eq_none {total : Nat} (h : Header) (ht : total < 7 ∨ 65542 < total) :
    setPacketLength h total = none := by
  rcases ht with ht | ht
  · exact if_pos ht
  · rw [setPacketLength, if_neg (by omega), if_pos ht]

/-- Within the range the length field holds the total less 7 (R182). -/
theorem setPacketLength_eq_some {total : Nat} (h : Header) (hlo : 7 ≤ total) (hhi : total ≤ 65542) :
    setPacketLength h total = some (setLengthField h (BitVec.ofNat 16 (total - 7))) := by
  rw [setPacketLength, if_neg (by omega), if_neg (by omega)]

/-- The total less 7 fits the length field, so the length read back is the total (R182). -/
theorem packetLength_setLengthField {total : Nat} (h : Header) (hlo : 7 ≤ total) (hhi : total ≤ 65542) :
    packetLength (setLengthField h (BitVec.ofNat 16 (total - 7))) = total := by
  rw [setLengthField_eq, packetLength_eq, BitVec.toNat_ofNat]
  omega

theorem codecResult_setPacketLength_of_none {h : Header} {total : Nat} (e : setPacketLength h total = none) :
    codecResult (.setPacketLength h total) = some noneResult := by
  rw [codecResult, e, optHeaderResult_none]

theorem codecResult_setPacketLength_of_some {h k : Header} {total : Nat} (e : setPacketLength h total = some k) :
    codecResult (.setPacketLength h total) = some (headerResult k) := by
  rw [codecResult, e, optHeaderResult_some]

/-- Settles O10, below the range, above it and within it. -/
theorem setPacketLengthRange : Obligations.SetPacketLengthRange := by
  intro h total s
  have outside (ht : total < 7 ∨ 65542 < total) : AnswersOnly (.setPacketLength h total) s .none :=
    answersNone_of_codecResult (codecResult_setPacketLength_of_none (setPacketLength_eq_none h ht))
  refine ⟨fun hlo => outside (.inl hlo), fun hhi => outside (.inr hhi), fun hlo hhi => ?_⟩
  rw [← setLengthField_eq h]
  exact ⟨answersHeader_of_codecResult (codecResult_setPacketLength_of_some (setPacketLength_eq_some h hlo hhi)),
    answersValue_of_codecResult rfl (packetLength_setLengthField h hlo hhi)⟩

/-! ### The named views -/

theorem packetTypeOf_eq_unknown_iff (n : Nat) : packetTypeOf n = .unknown ↔ 2 ≤ n := by
  match n with
  | 0 | 1 => decide
  | n + 2 => simp [packetTypeOf]

theorem secHdrFlagOf_eq_unknown_iff (n : Nat) : secHdrFlagOf n = .unknown ↔ 2 ≤ n := by
  match n with
  | 0 | 1 => decide
  | n + 2 => simp [secHdrFlagOf]

theorem seqFlagOf_eq_unknown_iff (n : Nat) : seqFlagOf n = .unknown ↔ 4 ≤ n := by
  match n with
  | 0 | 1 | 2 | 3 => decide
  | n + 4 => simp [seqFlagOf]

/-- The name of a field's bits has those bits, so it is not `unknown` (R169). -/
theorem packetTypeBits_packetTypeOf : ∀ v : BitVec 1, packetTypeBits (packetTypeOf v.toNat) = some v := by
  decide

theorem secHdrFlagBits_secHdrFlagOf : ∀ v : BitVec 1, secHdrFlagBits (secHdrFlagOf v.toNat) = some v := by
  decide

theorem seqFlagBits_seqFlagOf : ∀ v : BitVec 2, seqFlagBits (seqFlagOf v.toNat) = some v := by
  decide

/-- Settles O13: the two tables by their definitions, `unknown` beyond the field's width, and no name of a field's bits
is beyond it. -/
theorem namesAndBitsAgree : Obligations.NamesAndBitsAgree :=
  ⟨⟨rfl, rfl, rfl⟩,
    fun n => ⟨packetTypeOf_eq_unknown_iff n, secHdrFlagOf_eq_unknown_iff n, seqFlagOf_eq_unknown_iff n⟩,
    ⟨rfl, rfl, rfl⟩,
    fun h => ⟨packetTypeBits_packetTypeOf (getPacketType h), secHdrFlagBits_secHdrFlagOf (getSecHdrFlag h),
      seqFlagBits_seqFlagOf (getSeqType h)⟩⟩

end Sys2Proof.Machine
end

section
/-! SUPPORT. What the operations on the framer's input, its inspection and its configuration answer and leave
(spec/44_framer_status.md R191, spec/45_framer_input_config.md R220 to R238, spec/46_framer_extract.md R261,
spec/70_reset_and_hazards.md R330). -/

namespace Sys2Proof.Machine

section
variable {i : Instr} {s t : State} {r : Result}

/-- An operation that runs as a response to `r` completes with what holds of that response and its state. -/
theorem completes_of_exec_eq_respond {Q : State → Response → Prop} (h : exec i s = .next (respond r t))
    (hQ : Q (respond r t) (responseOf r t.freeSeq)) : Completes i s Q :=
  ⟨_, _, h, rfl, hQ⟩

/-- An operation that runs as a response alone answers its code and changes nothing (R20, R297). -/
theorem answersOnly_of_exec_eq_respond (h : exec i s = .next (respond r s)) : AnswersOnly i s r.rc :=
  completes_of_exec_eq_respond h ⟨rfl, respond_sameFramer r s, respond_sameOutside r s⟩

end

/-! ### Reception -/

/-- `RECV_SLICE` and `RECV_BYTES` both run as the reception of their data (R221). -/
theorem exec_of_mem_receive {d : List Byte} {s : State} {i : Instr} (hi : i ∈ [Instr.recvBytes d, Instr.recvSlice d]) :
    exec i s = .next (receive d s) := by
  simp only [List.mem_cons, List.not_mem_nil, or_false] at hi
  rcases hi with rfl | rfl <;> rfl

/-- Settles O15: within the capacity both operations leave `received d s`. -/
theorem receiveAppendsAndClearsTheLatch : Obligations.ReceiveAppendsAndClearsTheLatch := by
  intro d s fits i hi
  have hrun : exec i s = .next (received d s) := by rw [exec_of_mem_receive hi, receive_eq_received fits]
  exact completes_of_exec_eq_respond hrun ⟨rfl, rfl, rfl, rfl, rfl, rfl, rfl, ⟨rfl, rfl⟩,
    fun _ hk => readByte_append s.buf d hk⟩

/-- Beyond a finite capacity reception is the refusal `ERR_FULL` (R71). -/
theorem receive_eq_respondError {d : List Byte} {s : State} {cap : Nat} (hcap : s.par.bufCap = some cap)
    (hfull : cap < s.buf.length + d.length) : receive d s = respondError .errFull s := by
  have hover : ¬withinCap s.par.bufCap (s.buf.length + d.length) = true := fun h =>
    Nat.not_le.mpr hfull ((withinCap_iff _ _).mp h cap hcap)
  exact if_neg hover

/-- Settles O16: both operations run as the reception, and that is the refusal. -/
theorem receiveBeyondCapacityChangesNothing : Obligations.ReceiveBeyondCapacityChangesNothing := by
  intro d s cap hcap hfull
  have refused {i : Instr} (hi : i ∈ [Instr.recvBytes d, Instr.recvSlice d]) : AnswersOnly i s .errFull :=
    answersOnly_of_exec_eq_respond (r := { rc := .errFull })
      ((exec_of_mem_receive hi).trans (congrArg Host.Outcome.next (receive_eq_respondError hcap hfull)))
  exact ⟨refused (by simp), refused (by simp)⟩

/-! ### The allow-list -/

/-- The members of the allow-list after `ALLOW_APID`: the APID, and the members before where there was a list (R222). -/
theorem allowApid_getLsbD_iff (list : Option ApidSet) (a b : Apid) :
    (allowApid list a).getLsbD b.toNat = true ↔ b = a ∨ ∃ A : ApidSet, list = some A ∧ A.getLsbD b.toNat = true := by
  rw [allowApid, addApid_getLsbD _ _ _ b.isLt, Bool.or_eq_true, decide_eq_true_iff, BitVec.toNat_inj, or_comm]
  cases list <;> simp

/-- Settles O18: the list written is `allowApid` of the list before. -/
theorem allowApidAddsOneMember : Obligations.AllowApidAddsOneMember := fun a s =>
  completes_of_exec_eq_respond rfl ⟨rfl, ⟨allowApid s.cfg.allowedApids a, rfl, allowApid_getLsbD_iff _ a⟩,
    rfl, rfl, rfl, rfl, rfl, ⟨rfl, rfl⟩⟩

/-- Adding an APID is setting its bit of the bitmap (R30). -/
theorem addApid_eq_twoPow (A : ApidSet) (a : Apid) : addApid A a = A ||| BitVec.twoPow 2048 a.toNat := rfl

theorem noApids_or (A : ApidSet) : noApids ||| A = A := BitVec.zero_or

/-- `ALLOW_APID` is the write of the allow-list with the APID added (R113, R222). -/
theorem exec_allowApid (a : Apid) (s : State) :
    exec (.allowApid a) s = exec (.cfgAllowedApids (some (allowApid s.cfg.allowedApids a))) s := rfl

/-- Settles O45, each clause by what the operation runs as. -/
theorem pseudoOperationsExpand : Obligations.PseudoOperationsExpand := by
  refine fun s => ⟨fun d => rfl, fun a A hA => ?_, fun a hA => ?_, fun h t hlo hhi => ?_⟩
  · rw [exec_allowApid, hA, allowApid, Option.getD_some, addApid_eq_twoPow]
  · rw [exec_allowApid, hA, allowApid, Option.getD_none, addApid_eq_twoPow, noApids_or]
  · rw [exec_of_codecResult (codecResult_setPacketLength_of_some (setPacketLength_eq_some h hlo hhi)),
      exec_of_codecResult (i := .setLengthField h _) rfl]

/-! ### Inspection -/

/-- The counter is shown where it fits its width (R27, log 10). -/
theorem skippedShown_eq_some {s : State} (fits : ∀ w, s.par.cntW = some w → s.skipped < 2 ^ w) :
    skippedShown s = some s.skipped := by
  unfold skippedShown
  cases hw : s.par.cntW with
  | none => rfl
  | some w => exact if_pos (fits w hw)

/-- Settles O19: the response is `OK` in every case, and its value is the counter where that is shown. -/
theorem getSkippedAnswersTheCounter : Obligations.GetSkippedAnswersTheCounter := by
  refine fun s => ⟨answersOnly_of_exec_eq_respond (r := { rc := .ok, val := skippedShown s }) rfl, fun fits => ?_⟩
  have hval : (responseOf { rc := .ok, val := skippedShown s } s.freeSeq).val = s.skipped := by
    rw [skippedShown_eq_some fits]
    rfl
  exact completes_of_exec_eq_respond rfl ⟨rfl, hval, respond_sameFramer _ s, respond_sameOutside _ s⟩

/-- `CURRENT_HEADER` answers the header at the head (R191). -/
theorem exec_currentHeader_of_headerAt_eq {s : State} {h : Option Header} (e : headerAt s.cfg s.buf = h) :
    exec .currentHeader s = .next (respond (optHeaderResult h) s) :=
  congrArg (fun h => Host.Outcome.next (respond (optHeaderResult h) s)) e

/-- Settles O20: there is no header below `s + p + 6` bytes, and otherwise `headerAt_split` says which. -/
theorem currentHeaderReadsAtItsOffset : Obligations.CurrentHeaderReadsAtItsOffset := by
  refine fun s => ⟨fun hshort => ?_, fun before b rest hbuf hbefore => ?_⟩
  · exact answersOnly_of_exec_eq_respond (exec_currentHeader_of_headerAt_eq (headerAt_eq_none hshort))
  · have hh : headerAt s.cfg s.buf = some (decodeHeader b (framerOrder s.cfg)) := by
      rw [hbuf]
      exact headerAt_split hbefore
    exact completes_of_exec_eq_respond (exec_currentHeader_of_headerAt_eq hh)
      ⟨rfl, rfl, respond_sameFramer _ s, respond_sameOutside _ s⟩

/-- Settles O22: the two tables of codes, by their definitions. -/
theorem statusAndResponseCodes : Obligations.StatusAndResponseCodes := ⟨rfl, rfl⟩

/-! ### Reject -/

theorem exec_reject_of_nil {s : State} (h : s.buf = []) : exec .reject s = .next (respondError .errEmpty s) :=
  if_pos (List.isEmpty_iff.mpr h)

theorem exec_reject_of_ne_nil {s : State} (h : s.buf ≠ []) :
    exec .reject s = .next (respond okResult (advance1 s)) :=
  if_neg (by rwa [List.isEmpty_iff])

/-- Settles O26, by whether a byte is buffered. -/
theorem rejectDropsOneByte : Obligations.RejectDropsOneByte := by
  refine fun s => ⟨fun hnil => ?_, fun b rest hbuf => ?_⟩
  · exact answersOnly_of_exec_eq_respond (r := { rc := .errEmpty }) (exec_reject_of_nil hnil)
  · have hdrop : (advance1 s).buf = rest := by rw [advance1_buf, hbuf, List.drop_one, List.tail_cons]
    exact completes_of_exec_eq_respond (exec_reject_of_ne_nil (by simp [hbuf]))
      ⟨rfl, hdrop, rfl, rfl, rfl, rfl, rfl, ⟨rfl, rfl⟩⟩

/-! ### Configuration and reset -/

/-- `CFG_SYNC_BYTES` writes a marker within its limit (R230). -/
theorem exec_cfgSyncBytes_of_fits {y : List Byte} {s : State} (fits : ∀ m, s.par.syncMax = some m → y.length ≤ m) :
    exec (.cfgSyncBytes y) s = .next (writeCfg { s.cfg with syncBytes := y } s) :=
  if_pos ((withinCap_iff _ _).mpr fits)

/-- `CFG_SYNC_BYTES` answers `ERR_ARG` to a marker beyond its limit (R230). -/
theorem exec_cfgSyncBytes_of_long {y : List Byte} {s : State} {m : Nat} (hm : s.par.syncMax = some m)
    (hlong : m < y.length) : exec (.cfgSyncBytes y) s = .next (respondError .errArg s) :=
  if_neg fun h => Nat.not_le.mpr hlong ((withinCap_iff _ _).mp h m hm)

/-- Settles O41, within the limit and beyond it. -/
theorem syncMarkerWithinItsLimit : Obligations.SyncMarkerWithinItsLimit := fun _ _ =>
  ⟨fun fits => writesConfig_of_exec_eq (exec_cfgSyncBytes_of_fits fits),
    fun _ hm hlong => answersOnly_of_exec_eq_respond (r := { rc := .errArg }) (exec_cfgSyncBytes_of_long hm hlong)⟩

/-- Settles O42: the response carries the record, and a response changes nothing else. -/
theorem configurationReadsBack : Obligations.ConfigurationReadsBack := fun s =>
  completes_of_exec_eq_respond rfl ⟨rfl, rfl, respond_sameFramer _ s, respond_sameOutside _ s⟩

/-- Settles O43: the response to the state `resetFramer s`, field by field. -/
theorem resetRestoresTheResetState : Obligations.ResetRestoresTheResetState := fun _ =>
  completes_of_exec_eq_respond rfl ⟨rfl, rfl, rfl, rfl, rfl, rfl, rfl, ⟨rfl, rfl⟩⟩

/-- Settles O44: the reset state, field by field. -/
theorem powerOnState : Obligations.PowerOnState := ⟨rfl, rfl, rfl, rfl, rfl, rfl⟩

/-- Settles O60: nothing buffered, nothing counted, and the reset configuration is legal. -/
theorem resetHasTheInvariant : Obligations.ResetHasTheInvariant where
  length_ghost := rfl
  skipped_le := le_rfl
  buffer_wf := nil_wf _
  config_legal := reset_configLegal _

end Sys2Proof.Machine
end

section
/-! SUPPORT. Which operations change the latch, the counter and the configuration, what none changes, and what each
answers (spec/10_state.md R27, R28, R42, spec/46_framer_extract.md R268, spec/70_reset_and_hazards.md R331). -/

namespace Sys2Proof.Machine

/-- Every row may answer `OK` (R104). -/
theorem ok_mem_allowedCodes (o : Op) : .ok ∈ allowedCodes o := by
  cases o <;> decide

/-- A span that may be absent is answered `OK` or `NONE` (R104). -/
theorem optDataResult_rc_mem (d : Option (List Byte)) : (optDataResult d).rc ∈ [ResponseCode.ok, .none] := by
  cases d <;> simp

namespace Effect

variable {i : Instr} {s t : State}

theorem cmds_eq (h : Effect i s t) : t.cmds = s.cmds := by
  obtain ⟨-, -, -, hpull, -⟩ := pull_frame s
  obtain ⟨-, -, hiter, -⟩ := iterate_frame s
  cases h with
  | pulled => exact hpull
  | iterated => exact hiter
  | _ => rfl

theorem sameOutside (h : Effect i s t) : SameOutside s t := ⟨h.par_eq, h.cmds_eq⟩

/-- Every effect ends in a response, with a code that the row allows (R104, R105). -/
theorem exists_resp (h : Effect i s t) :
    ∃ r, t.resp = some r ∧ ∃ c ∈ allowedCodes (instrOp i), r.rc = responseCode c := by
  cases h with
  | answer r code => exact ⟨_, rfl, r.rc, code, rfl⟩
  | append | advance | write | reset => exact ⟨_, rfl, .ok, ok_mem_allowedCodes _, rfl⟩
  | pulled op | iterated op =>
    subst op
    exact ⟨_, rfl, _, optDataResult_rc_mem _, rfl⟩

/-- Only `NEXT`, `RECV_*` and `RESET` touch the latch (R28). -/
theorem endLatch_eq (h : Effect i s t) (hop : instrOp i ∉ [.next, .recvBytes, .recvSlice, .reset]) :
    t.endLatch = s.endLatch := by
  obtain ⟨hpull, -⟩ := pull_frame s
  cases h with
  | answer | advance | write => rfl
  | pulled => exact hpull
  | append _ op => rcases op with rfl | rfl <;> simp [instrOp] at hop
  | iterated op | reset op => subst op; simp [instrOp] at hop

/-- Only `NEXT` sets the latch: `RECV_*` and `RESET` clear it (R28). -/
theorem eq_next_of_sets_endLatch (h : Effect i s t) (hclear : s.endLatch = false) (hset : t.endLatch = true) :
    i = .next := by
  have unset (e : t.endLatch = s.endLatch) : i = .next := by rw [e, hclear] at hset; cases hset
  obtain ⟨hpull, -⟩ := pull_frame s
  cases h with
  | answer | advance | write => exact unset rfl
  | pulled => exact unset hpull
  | append | reset => cases hset
  | iterated op => exact op

/-- Only `REJECT`, `PULL_PACKET`, `NEXT` and `RESET` touch the counter (R27). -/
theorem skipped_eq (h : Effect i s t) (hop : instrOp i ∉ [.reject, .pullPacket, .next, .reset]) :
    t.skipped = s.skipped := by
  cases h with
  | answer | append | write => rfl
  | advance op | pulled op | iterated op | reset op => subst op; simp [instrOp] at hop

/-- Only `RESET` lowers the counter (R27). -/
theorem skipped_ge (h : Effect i s t) (hr : i ≠ .reset) : s.skipped ≤ t.skipped := by
  obtain ⟨-, -, -, -, -, -, -, hpull, -⟩ := pull_frame s
  obtain ⟨-, -, -, -, -, -, hiter, -⟩ := iterate_frame s
  cases h with
  | answer | append | write => exact le_rfl
  | advance => exact Nat.le_succ _
  | pulled => exact hpull
  | iterated => exact hiter
  | reset op => exact absurd op hr

/-- Only the operations of `writesConfig` and `RESET` touch the configuration (R42). -/
theorem cfg_eq (h : Effect i s t) (hw : instrOp i ∉ writesConfig) (hr : i ≠ .reset) : t.cfg = s.cfg := by
  obtain ⟨-, hpull, -⟩ := pull_frame s
  obtain ⟨hiter, -⟩ := iterate_frame s
  cases h with
  | answer | append | advance => rfl
  | pulled => exact hpull
  | iterated => exact hiter
  | write _ op => exact absurd op hw
  | reset op => exact absurd op hr

end Effect

/-- Settles O46, by the effect of the operation. -/
theorem onlyNextReceiveAndResetTouchTheLatch : Obligations.OnlyNextReceiveAndResetTouchTheLatch :=
  fun _ _ _ h => ⟨(exec_next_effect h).endLatch_eq, (exec_next_effect h).eq_next_of_sets_endLatch⟩

/-- Settles O47, by the effect of the operation. -/
theorem skippedNeverDecreases : Obligations.SkippedNeverDecreases :=
  fun _ _ _ h => ⟨(exec_next_effect h).skipped_eq, (exec_next_effect h).skipped_ge⟩

/-- Settles O48: the statement lists the operations of `writesConfig`, with `RESET` behind `ALLOW_APID`. -/
theorem onlyConfigurationWritesChangeTheConfiguration :
    Obligations.OnlyConfigurationWritesChangeTheConfiguration := by
  intro i s t h hop
  have hop' : instrOp i ∉ Op.reset :: writesConfig := fun hm => hop ((List.Perm.swap _ _ _).subset hm)
  obtain ⟨hr, hw⟩ := not_or.mp (mt List.mem_cons.mpr hop')
  exact (exec_next_effect h).cfg_eq hw (by rintro rfl; exact hr rfl)

/-- Settles O50: no effect touches the parameters or the commands. -/
theorem parametersAreFixed : Obligations.ParametersAreFixed :=
  fun _ _ _ h => (exec_next_effect h).sameOutside

/-- Settles O51: every operation has one of the effects, and every effect answers a code of the row. -/
theorem everyOperationCompletes : Obligations.EveryOperationCompletes := by
  intro i s
  obtain ⟨t, ht, he⟩ := exec_effect i s
  obtain ⟨r, hr, hcode⟩ := he.exists_resp
  exact ⟨t, r, ht, hr, hcode⟩

end Sys2Proof.Machine
end

section
/-! SUPPORT. What `PULL_PACKET` removes and returns (spec/46_framer_extract.md R262 to R264, spec/20_memory.md R74). -/

namespace Sys2Proof.Machine

/-! ### The frame and its span -/

/-- `T5` as a sum over the configuration and the length word (R17). -/
theorem frameLength_eq (c : ParserConfig) (h : Header) :
    frameLength c h = c.syncBytes.length + c.numHeaderBytes + (h.w2.toNat + 7) + c.numFooterBytes := by
  rw [frameLength, packetLength_eq, headerOffset, syncLen]

/-- The length of the span as a sum over the configuration and the length word (R263). -/
theorem spanLength_eq (c : ParserConfig) (h : Header) :
    spanLength c h = h.w2.toNat + 7 + (if c.keepSync then c.syncBytes.length else 0) +
      (if c.keepHeader then c.numHeaderBytes else 0) + (if c.keepFooter then c.numFooterBytes else 0) := by
  rw [spanLength, packetLength_eq, syncLen]

section
variable {c : ParserConfig} {h : Header} {buf : List Byte}

/-- A frame that is buffered whole gives a span of its full length (R263). -/
theorem length_span (hl : frameLength c h ≤ buf.length) :
    ((buf.drop (spanStart c)).take (spanLength c h)).length = spanLength c h := by
  have := span_le_frame c h
  rw [List.length_take, List.length_drop]
  omega

/-- The span of the buffer is the span `F[a .. a + n)` of the frame, which it does not leave (R263). -/
theorem span_of_frame (buf : List Byte) : ((buf.take (frameLength c h)).drop (spanStart c)).take (spanLength c h) =
    (buf.drop (spanStart c)).take (spanLength c h) := by
  have := span_le_frame c h
  rw [List.drop_take, List.take_take, Nat.min_eq_left (by omega)]

end

/-- The header of a valid head is that of a frame buffered whole (R200). -/
theorem frameLength_le_of_valid {s : State} {h : Header} (hv : status s = .validPacket)
    (hh : headerAt s.cfg s.buf = some h) : frameLength s.cfg h ≤ s.buf.length := by
  obtain ⟨k, hk, hl⟩ := valid_frame hv
  cases hh.symm.trans hk
  exact hl

/-- The state without the frame at its head (R263). -/
def withoutFrame (h : Header) (s : State) : State :=
  { s with buf := s.buf.drop (frameLength s.cfg h), gHead := s.gHead + frameLength s.cfg h }

theorem exec_pullPacket_of_pull {s t : State} {d : Option (List Byte)} (h : pull s = (t, d)) :
    exec .pullPacket s = .next (respond (optDataResult d) t) :=
  congrArg (fun p : State × Option (List Byte) => Host.Outcome.next (respond (optDataResult p.2) p.1)) h

/-- `PULL_PACKET` at a valid head removes the frame and answers its span (R263). -/
theorem exec_pullPacket_of_valid {s : State} {h : Header} (hv : status s = .validPacket)
    (hh : headerAt s.cfg s.buf = some h) :
    exec .pullPacket s =
      .next (respond (dataResult ((s.buf.drop (spanStart s.cfg)).take (spanLength s.cfg h))) (withoutFrame h s)) := by
  obtain ⟨hstate, hspan⟩ := extract_spec h s
  rw [exec_pullPacket_of_pull (pull_of_valid hv hh), hstate, hspan]
  rfl

/-- Settles O28: `exec_pullPacket_of_valid`, with the frame's and the span's lengths written out. -/
theorem pullExtractsTheFrame : Obligations.PullExtractsTheFrame := by
  intro s h hv hh c plen t5 a n
  have hl := frameLength_le_of_valid hv hh
  have ht5 : frameLength c h = t5 := frameLength_eq c h
  have hn : spanLength c h = n := spanLength_eq c h
  have hspan : (s.buf.drop a).take n = ((s.buf.take t5).drop a).take n := by
    rw [← ht5, ← hn]
    exact (span_of_frame s.buf).symm
  have hrun : exec .pullPacket s = .next (respond (dataResult ((s.buf.drop a).take n))
      { s with buf := s.buf.drop t5, gHead := s.gHead + t5 }) := by
    rw [← ht5, ← hn]
    exact exec_pullPacket_of_valid hv hh
  have hlen : ((s.buf.drop a).take n).length = n := by
    rw [← hn]
    exact length_span hl
  exact ⟨ht5 ▸ hl, completes_of_exec_eq_respond hrun ⟨rfl, hspan, hlen, rfl, rfl, rfl, rfl, rfl, rfl, ⟨rfl, rfl⟩⟩⟩

/-! ### The keep flags -/

/-- What the keep flags leave of the sync marker and the header bytes `pre` behind it, by R264's rows: with the marker
kept and `pre` not, as many bytes as `pre` has are dropped from the front of the two (D22). -/
def keptFront (c : ParserConfig) (sync pre : List Byte) : List Byte :=
  if c.keepSync then (if c.keepHeader then sync ++ pre else (sync ++ pre).drop pre.length)
  else (if c.keepHeader then pre else [])

/-- What the keep flags leave of the footer (R264). -/
def keptFooter (c : ParserConfig) (foot : List Byte) : List Byte :=
  if c.keepFooter then foot else []

section
variable {c : ParserConfig} {sync pre : List Byte}

/-- In each row the span starts where what is kept of the marker and of `pre` starts (R263). -/
theorem drop_spanStart (hsync : sync.length = c.syncBytes.length) (hpre : pre.length = c.numHeaderBytes) :
    (sync ++ pre).drop (spanStart c) = keptFront c sync pre := by
  rw [spanStart, syncLen, ← hsync, ← hpre, keptFront]
  cases c.keepSync <;> cases c.keepHeader <;> simp [← List.length_append]

/-- The span is as long as the parts that are kept (R263). -/
theorem spanLength_eq_kept {h : Header} {foot pkt : List Byte} (hsync : sync.length = c.syncBytes.length)
    (hpre : pre.length = c.numHeaderBytes) (hpkt : pkt.length = packetLength h)
    (hfoot : foot.length = c.numFooterBytes) :
    (keptFront c sync pre ++ pkt ++ keptFooter c foot).length = spanLength c h := by
  rw [spanLength, syncLen, ← hsync, ← hpre, ← hfoot, ← hpkt, keptFront, keptFooter]
  cases c.keepSync <;> cases c.keepHeader <;> cases c.keepFooter <;> simp <;> omega

/-- What is kept of the footer stands behind the packet (R263). -/
theorem exists_keptFooter_append (c : ParserConfig) (foot rest : List Byte) :
    ∃ rest', foot ++ rest = keptFooter c foot ++ rest' := by
  cases h : c.keepFooter with
  | false => exact ⟨foot ++ rest, by simp [keptFooter, h]⟩
  | true => exact ⟨rest, by simp [keptFooter, h]⟩

/-- The span of a buffer cut into the parts of its frame is what the keep flags leave of each part (R264). -/
theorem span_eq_kept {h : Header} {foot pkt : List Byte} (rest : List Byte) (hsync : sync.length = c.syncBytes.length)
    (hpre : pre.length = c.numHeaderBytes) (hpkt : pkt.length = packetLength h)
    (hfoot : foot.length = c.numFooterBytes) :
    ((sync ++ (pre ++ (pkt ++ (foot ++ rest)))).drop (spanStart c)).take (spanLength c h) =
      keptFront c sync pre ++ pkt ++ keptFooter c foot := by
  have hstart : spanStart c ≤ (sync ++ pre).length := by
    rw [spanStart, syncLen, ← hsync, ← hpre, List.length_append]
    split_ifs <;> omega
  obtain ⟨rest', hrest⟩ := exists_keptFooter_append c foot rest
  rw [← List.append_assoc sync, List.drop_append_of_le_length hstart, drop_spanStart hsync hpre, hrest,
    ← List.append_assoc pkt, ← List.append_assoc, ← List.append_assoc,
    List.take_left' (spanLength_eq_kept hsync hpre hpkt hfoot)]

end

/-- Settles O29: the parts of the frame are as long as the frame, and the span is what is kept of each. -/
theorem keepFlagsSelectTheSpan : Obligations.KeepFlagsSelectTheSpan := by
  intro s h sync pre pkt foot rest hv hh hbuf hsync hpre hpkt hfoot
  have hrest : (withoutFrame h s).buf = rest := by
    have hlen : (sync ++ pre ++ pkt ++ foot).length = frameLength s.cfg h := by
      simp only [List.length_append, frameLength, headerOffset, syncLen, hsync, hpre, hpkt, hfoot]
    have hcut : s.buf = sync ++ pre ++ pkt ++ foot ++ rest := by simp only [hbuf, List.append_assoc]
    rw [withoutFrame, hcut, List.drop_left' hlen]
  have hspan := span_eq_kept rest hsync hpre hpkt hfoot
  rw [← hbuf] at hspan
  exact completes_of_exec_eq_respond (exec_pullPacket_of_valid hv hh) ⟨rfl, hrest, hspan⟩

/-! ### From every state -/

/-- Settles O30: `pull_spec`, with the frame's and the span's lengths written out. -/
theorem pullStopsAtTheFirstPositionNotMalformed : Obligations.PullStopsAtTheFirstPositionNotMalformed := by
  intro s c statusAt
  obtain ⟨k, hk, hj, ⟨hins, hpull⟩ | ⟨hvalid, h, hh, hl, hpull⟩⟩ := pull_spec s
  · have hins' : insufficient (statusAt k) = true := hins
    have hmal : malformed (statusAt k) = false := by rw [malformed, hins', Bool.not_true, Bool.false_and]
    have hne : statusAt k ≠ .validPacket := fun e => by
      rw [e] at hins'
      cases hins'
    exact completes_of_exec_eq_respond (exec_pullPacket_of_pull hpull)
      ⟨k, hk, hj, hmal, rfl, rfl, rfl, rfl, ⟨rfl, rfl⟩, fun _ => ⟨rfl, rfl, rfl⟩, fun e => absurd e hne⟩
  · have hvalid' : statusAt k = .validPacket := hvalid
    have hroom : k + frameLength s.cfg h ≤ s.buf.length := by omega
    have hlen := length_span (hl.trans_eq List.length_drop.symm)
    rw [List.drop_drop, spanLength_eq] at hlen hpull
    rw [frameLength_eq] at hroom hpull
    have hmal : malformed (statusAt k) = false := by rw [hvalid']; rfl
    have hne : insufficient (statusAt k) ≠ true := by rw [hvalid', insufficient_validPacket]; decide
    exact completes_of_exec_eq_respond (exec_pullPacket_of_pull hpull)
      ⟨k, hk, hj, hmal, rfl, rfl, rfl, rfl, ⟨rfl, rfl⟩, fun e => absurd e hne,
        fun _ => ⟨rfl, h, hh, hroom, rfl, hlen, rfl, rfl⟩⟩

end Sys2Proof.Machine
end

section
/-! SUPPORT. What `NEXT` answers and leaves, what it shares with `PULL_PACKET`, and that draining the buffer with it
ends (spec/46_framer_extract.md R266, R267, spec/20_memory.md R74). -/

namespace Sys2Proof.Machine

/-- The code `OK` says that a span was extracted. -/
theorem optDataResult_rc_eq_ok {d : Option (List Byte)}
    (h : responseCode (optDataResult d).rc = responseCode .ok) : ∃ x, d = some x := by
  cases d with
  | none => exact absurd h (by decide)
  | some x => exact ⟨x, rfl⟩

/-- The code `NONE` says exactly that no span was extracted. -/
theorem isNone_iff_optDataResult_rc (d : Option (List Byte)) :
    d.isNone = true ↔ responseCode (optDataResult d).rc = responseCode .none := by
  cases d with
  | none => exact iff_of_true rfl rfl
  | some x => exact iff_of_false (by simp) (by simp [responseCode])

/-! ### The four cases of `NEXT` -/

theorem exec_next_eq (s : State) : exec .next s = .next (respond (optDataResult (iterate s).2) (iterate s).1) := rfl

theorem exec_next_of_iterate {s t : State} {d : Option (List Byte)} (h : iterate s = (t, d)) :
    exec .next s = .next (respond (optDataResult d) t) :=
  congrArg (fun p : State × Option (List Byte) => Host.Outcome.next (respond (optDataResult p.2) p.1)) h

section
variable {s : State}

theorem iterate_of_latched (h : s.endLatch = true) : iterate s = (s, none) := if_pos h

/-- With the latch clear, a packet that `PULL_PACKET` gives is the one that `NEXT` gives (R266). -/
theorem iterate_of_packet {d : List Byte} (hl : s.endLatch = false) (hd : (pull s).2 = some d) :
    iterate s = pull s := by
  rcases iterate_spec s with ⟨hl', -⟩ | ⟨-, -, he⟩ | ⟨-, hn, -⟩ | ⟨-, hn, -⟩
  · exact absurd (hl.symm.trans hl') (by decide)
  · exact he
  · cases hd.symm.trans hn
  · cases hd.symm.trans hn

/-- With the latch clear and too few bytes for a header, `NEXT` sets the latch (R266). -/
theorem iterate_of_out_of_data (hl : s.endLatch = false) (hn : (pull s).2 = none)
    (hst : status (pull s).1 = .notEnoughBytesForHeader) :
    iterate s = ({ (pull s).1 with endLatch := true }, none) := by
  rcases iterate_spec s with ⟨hl', -⟩ | ⟨-, ⟨d, hd⟩, -⟩ | ⟨-, -, -, he⟩ | ⟨-, -, hst', -⟩
  · exact absurd (hl.symm.trans hl') (by decide)
  · cases hn.symm.trans hd
  · exact he
  · cases hst.symm.trans hst'

/-- With the latch clear and a head short of its packet, `NEXT` advances, pulls again, and sets the latch if that too
gives nothing (R266). -/
theorem iterate_of_retry (hl : s.endLatch = false) (hn : (pull s).2 = none)
    (hst : status (pull s).1 ≠ .notEnoughBytesForHeader) : status (pull s).1 = .notEnoughBytesForPacket ∧
      iterate s = ({ (pull (advance1 (pull s).1)).1 with endLatch := (pull (advance1 (pull s).1)).2.isNone },
        (pull (advance1 (pull s).1)).2) := by
  rcases iterate_spec s with ⟨hl', -⟩ | ⟨-, ⟨d, hd⟩, -⟩ | ⟨-, -, hst', -⟩ | ⟨-, -, hst', he⟩
  · exact absurd (hl.symm.trans hl') (by decide)
  · cases hn.symm.trans hd
  · exact absurd hst' hst
  · exact ⟨hst', he⟩

/-- `NEXT` leaves the latch set exactly when it gives nothing (R266). -/
theorem iterate_endLatch (s : State) : (iterate s).1.endLatch = (iterate s).2.isNone := by
  rcases iterate_spec s with ⟨hl, he⟩ | ⟨hl, ⟨d, hd⟩, he⟩ | ⟨-, -, -, he⟩ | ⟨-, -, -, he⟩ <;> rw [he]
  · exact hl
  · rw [(pull_frame s).1, hl, hd, Option.isNone_some]
  · rfl

end

/-- Settles O34: the latched case of `NEXT` is a response alone. -/
theorem nextWithTheLatchSet : Obligations.NextWithTheLatchSet := fun _ hl =>
  answersOnly_of_exec_eq_respond (r := noneResult) (exec_next_of_iterate (iterate_of_latched hl))

/-! ### `NEXT` after the `PULL_PACKET` it begins with -/

/-- The state after a `PULL_PACKET` and its response are those of the pull (R262). -/
theorem eq_of_exec_pullPacket {s t : State} {r : Response} (hrun : exec .pullPacket s = .next t)
    (hresp : t.resp = some r) : t = respond (optDataResult (pull s).2) (pull s).1 ∧
      r.rc = responseCode (optDataResult (pull s).2).rc := by
  cases hrun
  cases hresp
  exact ⟨rfl, rfl⟩

/-- Settles O35: the pull gave a packet, so both operations respond alike to the same pull. -/
theorem nextReturnsWhatPullReturns : Obligations.NextReturnsWhatPullReturns := by
  intro s t r hl hrun hresp hok
  obtain ⟨rfl, hrc⟩ := eq_of_exec_pullPacket hrun hresp
  obtain ⟨d, hd⟩ := optDataResult_rc_eq_ok (hrc.symm.trans hok)
  exact ⟨exec_next_of_iterate (iterate_of_packet hl hd), (pull_frame s).1.trans hl⟩

/-- Settles O36: the out-of-data case of `NEXT` is the pull's state with the latch set. -/
theorem nextOutOfData : Obligations.NextOutOfData := by
  intro s t r hl hrun hresp hnone hst
  obtain ⟨rfl, hrc⟩ := eq_of_exec_pullPacket hrun hresp
  have hd : (pull s).2 = none := optDataResult_rc_eq_none (hrc.symm.trans hnone)
  obtain ⟨-, -, hpar, hcmds, -⟩ := pull_frame s
  exact completes_of_exec_eq_respond (exec_next_of_iterate (iterate_of_out_of_data hl hd hst))
    ⟨rfl, rfl, rfl, rfl, rfl, rfl, rfl, ⟨hpar, hcmds⟩⟩

/-- An advance and a pull after a response are those before it, under the response's fields. -/
theorem pull_advance1_respond (r : Result) (s : State) : pull (advance1 (respond r s)) =
    (withInterface (some (responseOf r s.freeSeq)) (s.freeSeq + 1) (pull (advance1 s)).1, (pull (advance1 s)).2) :=
  pull_withInterface _ _ (advance1 s)

/-- Settles O37: the retry case of `NEXT` pulls from the state that the first `PULL_PACKET` leaves after an advance, and
so does the second `PULL_PACKET`. -/
theorem nextRetriesOnce : Obligations.NextRetriesOnce := by
  intro s t r hl hrun hresp hnone hst
  obtain ⟨rfl, hrc⟩ := eq_of_exec_pullPacket hrun hresp
  have hd : (pull s).2 = none := optDataResult_rc_eq_none (hrc.symm.trans hnone)
  obtain ⟨hshort, hiter⟩ := iterate_of_retry hl hd hst
  have hout : SameOutside s (pull (advance1 (pull s).1)).1 := by
    obtain ⟨-, -, hpar, hcmds, -⟩ := pull_frame s
    obtain ⟨-, -, hpar', hcmds', -⟩ := pull_frame (advance1 (pull s).1)
    exact ⟨hpar'.trans hpar, hcmds'.trans hcmds⟩
  have hretry := exec_pullPacket_of_pull (pull_advance1_respond (optDataResult (pull s).2) (pull s).1)
  have hnext := exec_next_of_iterate hiter
  generalize pull (advance1 (pull s).1) = retry at hout hretry hnext
  refine ⟨hshort, completes_of_exec_eq_respond hretry <| completes_of_exec_eq_respond hnext
    ⟨rfl, fun hok => ?_, rfl, rfl, rfl, rfl, rfl, ⟨hout.par, hout.cmds⟩, isNone_iff_optDataResult_rc _⟩⟩
  obtain ⟨x, hx⟩ := optDataResult_rc_eq_ok hok
  rw [hx]
  rfl

/-! ### Packets leave in order -/

/-- `d` is a run of at least 7 bytes of the stream buffered in `s`, and has left the buffer by `t` (R74). -/
def LeftAsRun (s t : State) (d : List Byte) : Prop :=
  ∃ a b, s.gHead ≤ a ∧ a + 7 ≤ b ∧ b ≤ t.gHead ∧ d = (s.buf.drop (a - s.gHead)).take (b - a)

/-- A run of what is buffered after bytes have left at the head is a run of what was buffered before. -/
theorem LeftAsRun.of_flow {s u t : State} {d : List Byte} (h : LeftAsRun u t d) (hflow : Flow [] s u) :
    LeftAsRun s t d := by
  obtain ⟨a, b, ha, hab, hb, hd⟩ := h
  have hle := hflow.gHead_le
  have hbuf := hflow.buf_eq
  refine ⟨a, b, by omega, hab, hb, ?_⟩
  rw [hd, hbuf, List.append_nil, List.drop_drop]
  congr 2
  omega

/-- A packet that `NEXT` gives, at once or on its retry, is a run of the buffer that has left it (R74). -/
theorem iterate_packet {s : State} {d : List Byte} (h : (iterate s).2 = some d) : LeftAsRun s (iterate s).1 d := by
  rcases iterate_spec s with ⟨-, he⟩ | ⟨-, -, he⟩ | ⟨-, -, -, he⟩ | ⟨-, -, hst, he⟩
  · rw [he] at h
    cases h
  · rw [he] at h ⊢
    exact pull_packet h
  · rw [he] at h
    cases h
  · rw [he] at h ⊢
    have hne : (pull s).1.buf ≠ [] := List.ne_nil_of_length_pos (by have := retry_has_bytes hst; omega)
    have hretry : LeftAsRun (advance1 (pull s).1) (pull (advance1 (pull s).1)).1 d := pull_packet h
    exact hretry.of_flow ((pull_flow s).trans (advance1_flow hne))

/-- A response to what left at the head shows where it left, and a span that it shows is a run that left. -/
theorem leavesInOrder_of_flow {s t : State} {d : Option (List Byte)} (hflow : Flow [] s t)
    (hrun : ∀ x, d = some x → LeftAsRun s t x) :
    s.gHead ≤ t.gHead ∧ t.buf = s.buf.drop (t.gHead - s.gHead) ∧
      ((responseOf (optDataResult d) t.freeSeq).rc = responseCode .ok → ∃ a b, s.gHead ≤ a ∧ a + 7 ≤ b ∧
        b ≤ t.gHead ∧ t.gHead ≤ s.gHead + s.buf.length ∧
        (responseOf (optDataResult d) t.freeSeq).data = (s.buf.drop (a - s.gHead)).take (b - a)) := by
  obtain ⟨hle, hbound, -, hbuf⟩ := hflow
  rw [List.append_nil] at hbound hbuf
  refine ⟨hle, hbuf, fun hok => ?_⟩
  obtain ⟨x, rfl⟩ := optDataResult_rc_eq_ok hok
  obtain ⟨a, b, ha, hab, hb, hx⟩ := hrun x rfl
  exact ⟨a, b, ha, hab, hb, hbound, hx⟩

/-- Settles O33: both operations let bytes out at the head only, and their packets are runs of them. -/
theorem packetsLeaveInStreamOrder : Obligations.PacketsLeaveInStreamOrder := by
  intro i s hi
  simp only [List.mem_cons, List.not_mem_nil, or_false] at hi
  rcases hi with rfl | rfl
  · exact completes_of_exec_eq_respond (exec_pullPacket_of_pull rfl)
      (leavesInOrder_of_flow (pull_flow s) fun _ => pull_packet)
  · exact completes_of_exec_eq_respond (exec_next_eq s)
      (leavesInOrder_of_flow (iterate_flow s) fun _ => iterate_packet)

/-! ### Draining the buffer -/

/-- A packet that has left shortens the buffer by at least its own length (R267). -/
theorem LeftAsRun.length_buf_le {s t : State} {d : List Byte} (h : LeftAsRun s t d) (hflow : Flow [] s t) :
    t.buf.length + 7 ≤ s.buf.length := by
  obtain ⟨a, b, ha, hab, hb, -⟩ := h
  have hlen := hflow.length_buf
  rw [List.length_nil] at hlen
  omega

/-- Settles O38: by whether `NEXT` gives a packet. -/
theorem nextMakesProgress : Obligations.NextMakesProgress := by
  intro s
  refine completes_of_exec_eq_respond (exec_next_eq s) ⟨fun hok => ?_, fun hnone => ?_, ?_⟩
  · obtain ⟨d, hd⟩ := optDataResult_rc_eq_ok hok
    have hlatch := iterate_endLatch s
    rw [hd, Option.isNone_some] at hlatch
    exact ⟨(iterate_packet hd).length_buf_le (iterate_flow s), hlatch⟩
  · have hd : (iterate s).2 = none := optDataResult_rc_eq_none hnone
    rw [respond_endLatch, iterate_endLatch, hd, Option.isNone_none]
  · cases (iterate s).2 with
    | none => exact .inr rfl
    | some d => exact .inl rfl

/-- After a `NEXT` the latch is set, or the buffer is shorter by a packet (R267). -/
theorem iterate_latched_or_shorter (s : State) :
    (iterate s).1.endLatch = true ∨ (iterate s).1.buf.length + 7 ≤ s.buf.length := by
  cases hd : (iterate s).2 with
  | none => exact .inl (by rw [iterate_endLatch, hd, Option.isNone_none])
  | some d => exact .inr ((iterate_packet hd).length_buf_le (iterate_flow s))

/-- A latched `NEXT` stays latched (R266). -/
theorem iterate_endLatch_of_latched {s : State} (h : s.endLatch = true) : (iterate s).1.endLatch = true := by
  rw [iterate_of_latched h]
  exact h

/-- A step at a waiting `NEXT` runs it (R105). -/
theorem step_of_next {s : State} {rest : List Command} (h : s.cmds = encode .next :: rest) :
    step s = exec .next { s with cmds := rest } :=
  step_of_decode_ok h (decode_encode rfl)

/-- `n` `NEXT` commands from a state that is latched or holds fewer than `n` packets end latched: each keeps the latch,
sets it, or takes a packet out. -/
theorem run_next_latched {n : Nat} {s : State} (hcmds : s.cmds = List.replicate n (encode .next))
    (h : s.endLatch = true ∨ s.buf.length < 7 * n) :
    ∃ t, Host.Core.run core n s = .next t ∧ t.endLatch = true ∧ t.cmds = [] := by
  induction n generalizing s with
  | zero => exact ⟨s, rfl, h.resolve_right (by omega), hcmds⟩
  | succ n ih =>
    have hstep := step_of_next hcmds
    rw [exec_next_eq] at hstep
    rw [run_succ core n hstep]
    obtain ⟨-, -, hrest, -⟩ := iterate_frame { s with cmds := List.replicate n (encode .next) }
    refine ih hrest ?_
    rcases h with hlatch | hlen
    · exact .inl (iterate_endLatch_of_latched hlatch)
    · refine (iterate_latched_or_shorter { s with cmds := List.replicate n (encode .next) }).imp id fun hshort => ?_
      simp only [respond_buf] at hshort ⊢
      omega

/-- Settles O39: the run of `n` `NEXT` commands, from fewer bytes than `n` packets have. -/
theorem drainingWithNextEnds : Obligations.DrainingWithNextEnds :=
  fun _ _ hcmds hlen => run_next_latched hcmds (.inr hlen)

end Sys2Proof.Machine
end
